-- ==== Sys2Proof/Word.lean ====
section
/-! DEFINITION. The unsigned integers and byte sequences of the spec's notation (00_scope.md R7, R8). -/

namespace Sys2Proof

/-- A byte, 0 to 255 (R8). -/
abbrev Byte := BitVec 8

/-- `u16`, the checksum's register image (R8, R75). -/
abbrev Half := BitVec 16

/-- `u32`: a bus address or a data word (R7: `ADDR_W = DATA_W = 32`). -/
abbrev Word := BitVec 32

/-- A finite list of bytes, possibly empty (R8). -/
abbrev ByteSeq := List Byte

end Sys2Proof
end

