-- ==== Sys2Proof/Syntax.lean ====
section
/-! DEFINITION. The three commands of the opcode map (30_encoding.md R54). -/

namespace Sys2Proof

/-- A command of the block. It has no operand fields (R53): its inputs are IN_LEN and the input buffer. -/
inductive Instr where
  /-- ENCODE, header_encoder with checksum_unit (40_header_encoder.md R62). -/
  | encode
  /-- DECODE, header_decoder with checksum_unit (41_header_decoder.md R72). -/
  | decode
  /-- CHECKSUM, checksum_unit alone (42_checksum_unit.md R76). -/
  | checksum
  deriving DecidableEq, Repr

/-- The two fields of a command word in format CMD32 (R53). -/
structure CommandFields where
  /-- Bits 31:4, which must be zero. -/
  z : BitVec 28
  /-- Bits 3:0, the opcode. -/
  op : BitVec 4
  deriving DecidableEq, Repr

end Sys2Proof
end

