-- ==== Sys2Proof/WellFormed.lean ====
section
/-! DEFINITION. When the fields of a command word are well-formed (30_encoding.md R53, R54, R55). -/

namespace Sys2Proof

/-- `OP` for each command (R54). -/
def Instr.op : Instr → BitVec 4
  | .encode => 0x1
  | .decode => 0x2
  | .checksum => 0x3

/-- The fields of a command's word (R53, R54): `Z` is zero. -/
def Instr.fields (i : Instr) : CommandFields := ⟨0, i.op⟩

/-- Bits 31:4 are zero (R53). -/
def CommandFields.reservedClear (f : CommandFields) : Bool := f.z == 0

/-- `OP` is 0x1, 0x2 or 0x3 (R54). -/
def CommandFields.opDefined (f : CommandFields) : Bool := f.op == 0x1 || f.op == 0x2 || f.op == 0x3

/-- A word that is not illegal (R55). -/
def CommandFields.wellFormed (f : CommandFields) : Bool := f.reservedClear && f.opDefined

/-- A command is well-formed when the fields of its word are. -/
def Instr.wellFormed (i : Instr) : Bool := i.fields.wellFormed

end Sys2Proof
end

