-- ==== Sys2Proof/Decode.lean ====
section
/-! DEFINITION. Decoding of command words, total and rejecting by name, and the encoder (30_encoding.md R53, R54, R55). -/

namespace Sys2Proof

/-- Why a command word is illegal (R55; log 17). -/
inductive DecodeError where
  /-- `w[31:4]` is not zero. -/
  | reservedBits
  /-- `w[31:4]` is zero and `OP` is 0x0 or 0x4 to 0xF. -/
  | undefinedOp
  deriving DecidableEq, Repr

/-- The fields of a command word (R53). -/
def splitWord (w : Word) : CommandFields := ⟨w.extractLsb' 4 28, w.extractLsb' 0 4⟩

/-- A command word from its fields (R53). -/
def joinWord (f : CommandFields) : Word := f.z ++ f.op

/-- The command a whole word selects (R54), or why it selects none (R55). -/
def decodeWord (w : Word) : Except DecodeError Instr :=
  let f := splitWord w
  if f.reservedClear = false then .error .reservedBits
  else if f.op = 0x1 then .ok .encode
  else if f.op = 0x2 then .ok .decode
  else if f.op = 0x3 then .ok .checksum
  else .error .undefinedOp

/-- The word of a command (R54). -/
def encodeWord (i : Instr) : Word := joinWord i.fields

/-- The command word whose low `nbits` bits are those of `w`, every bit above them zero. A command word is written to CMD as one
32-bit word and a register has no byte order (20_memory.md R38), so bit 0 is bit 0. -/
def tableWord (nbits w : Nat) : Word := BitVec.ofNat 32 (w % 2 ^ nbits)

/-- The command this decoder reads from a word of the opcode table. -/
def decodeTableWord (nbits w : Nat) : Option Instr :=
  match decodeWord (tableWord nbits w) with
  | .ok i => some i
  | .error _ => none

end Sys2Proof
end

