-- ==== Sys2Proof/Config.lean ====
section
/-! DEFINITION. What an implementation fixes (00_scope.md R2 to R6) and the free values of the spec's draws. -/

namespace Sys2Proof

/-- The configuration of one unit: a parameter of the step, not state (10_state.md R10).
The open parameters are held as offsets from their least values, so that every value of the type is a legal one (log 2). -/
structure Config where
  /-- `IN_CAP - 8`: R2 gives `8 <= IN_CAP <= 2^30 - 8`. -/
  inCapLess8 : Fin (2 ^ 30 - 16 + 1)
  /-- `DIGEST_LEN - 2`: R4 gives `DIGEST_LEN >= 2`. -/
  digestLenLess2 : Nat
  /-- Byte `i` of the digest of a byte sequence (R4, R73): `DIGEST` is total, deterministic and keyless. -/
  digestByte : ByteSeq → Nat → Byte
  /-- `SIG_CHECK`, default true (R5). -/
  sigCheck : Bool := true
  /-- FREE VALUE: the byte that draw number `n` gives index `i` of InBuf (R24, R91; log 3). -/
  inBufDraw : Nat → Nat → Byte
  /-- FREE VALUE: what the draw of bus access number `n` returns (R37, R97; log 6). -/
  freeWord : Nat → Word
  deriving Inhabited

namespace Config

/-- `IN_CAP`, the input buffer's capacity in bytes (R2). -/
def inCap (c : Config) : Nat := c.inCapLess8.val + 8

/-- `OUT_CAP = IN_CAP + 8` (R3). -/
def outCap (c : Config) : Nat := c.inCap + 8

/-- `DIGEST_LEN` (R4). -/
def digestLen (c : Config) : Nat := c.digestLenLess2 + 2

/-- `DIGEST(P)`, a byte sequence of the fixed length `DIGEST_LEN` for every `P` (R4, R73). -/
def digest (c : Config) (p : ByteSeq) : ByteSeq := (List.range c.digestLen).map (c.digestByte p)

/-- The configuration of each unit of a system (R89). No body: nothing can be proved about any one value. -/
opaque ofUnit : Nat → Config

/-- The configuration of the one unit that `Sys2Proof.core` models. -/
def unit : Config := ofUnit 0

/-- `N_UNITS - 1` (R6). No body (log 16). -/
opaque moreUnits : Nat

/-- `N_UNITS >= 1`, the number of units of a system (R6). -/
def nUnits : Nat := moreUnits + 1

end Config

end Sys2Proof
end

