-- ==== Sys2Proof/Machine/State.lean ====
section
/-! DEFINITION. The state of one unit (10_state.md), as plain data, and the state after reset. -/

namespace Sys2Proof.Machine

/-- Why a step stops the machine. The spec has no such case: every error is a status code of a completion (60_exceptions.md R78)
or an ERROR response (20_memory.md R33), and "the unit never hangs" (70_reset_and_hazards.md R95). So it has no constructor,
and nothing raises one (safe; log 11). -/
inductive Fault where
  deriving DecidableEq, Repr

/-- Why a command has no meaning. -/
inductive Refusal where
  /-- Raised only by an arm of `exec` whose command has no meaning yet; no arm is left so (safe). -/
  | notModelled (mnemonic : String)
  deriving DecidableEq, Repr

/-- The values of STATUS.CODE (60_exceptions.md R78). Codes 9 to 15 are never produced, so they have no constructor. -/
inductive StatusCode where
  | ok | encoding | unsupportedAlgo | lengthMismatch | checksumMismatch | signature | short | illegalCmd | inLen
  deriving DecidableEq, Repr

/-- The kinds of bus access (20_memory.md R30). -/
inductive AccessKind where
  | read | write
  deriving DecidableEq, Repr

/-- The size of an access: 1 or 4 bytes, the legal sizes (00_scope.md R7), or any other, which gets ERROR
(93_implementation_defined.md I13; log 18). -/
inductive AccessSize where
  | byte | word | other
  deriving DecidableEq, Repr

/-- A host access (20_memory.md R30). -/
structure Access where
  kind : AccessKind
  addr : Word
  size : AccessSize
  wdata : Word
  deriving DecidableEq, Repr

/-- The two responses (20_memory.md R30). -/
inductive Resp where
  | okay | error
  deriving DecidableEq, Repr

/-- What an access returns (20_memory.md R30). -/
structure Response where
  resp : Resp
  rdata : Word
  deriving DecidableEq, Repr

/-- What can happen next: one step of one agent (10_state.md R9). -/
inductive Event where
  /-- The host issues a bus access (20_memory.md R30). -/
  | access (a : Access)
  /-- The unit's turn: it completes its pending command, if it has one (70_reset_and_hazards.md R94). -/
  | complete
  /-- The reset input is asserted (70_reset_and_hazards.md R91). -/
  | reset
  deriving DecidableEq, Repr

/-- A pending command (10_state.md R26): the word written to CMD, IN_LEN at accept and the input bytes at accept. -/
structure Pending where
  word : Word
  len : Word
  data : ByteSeq
  deriving DecidableEq, Repr

/-- The bytes of a buffer that have a defined value: index and byte, the indices strictly rising. An unlisted index has no
listed value (log 3, log 4 and log 8 say what a read of one gives). -/
abbrev Memory := List Host.Cell

/-- The state of one unit: the registers of 10_state.md R12 to R22, the buffers of R24 and R25 and the pending slot of R26.
`STATUS.BUSY`, `STATUS.ERR`, the fields FVER, COMP and NC of DEC_HDR and the IRQ output are functions of it and are not stored.
The last four fields are the model's own. -/
structure State where
  /-- STATUS.DONE (R13). -/
  done : Bool
  /-- STATUS.HAZ (R13). -/
  haz : Bool
  /-- STATUS.CODE (R13). -/
  code : StatusCode
  /-- STATUS.FIELD (R13). -/
  field : Bool
  /-- CTRL.IE (R14). -/
  ie : Bool
  /-- IN_LEN (R15). -/
  inLen : Word
  /-- OUT_LEN (R16). -/
  outLen : Word
  /-- CKSUM bits 15:0 (R17). -/
  cksum : Half
  /-- DEC_HDR.SIG (R18). -/
  decSig : Byte
  /-- DEC_HDR.VERS (R18). -/
  decVers : Byte
  /-- DEC_LEN (R19). -/
  decLen : Word
  /-- DEC_CKSUM bits 15:0 (R20). -/
  decCksum : Half
  /-- ERR_EXP (R21). -/
  errExp : Word
  /-- ERR_ACT (R22). -/
  errAct : Word
  /-- InBuf (R24): the bytes the host has written since reset. -/
  inBuf : Memory
  /-- OutBuf (R25): the bytes of the last result. -/
  outBuf : Memory
  /-- Pending (R26). -/
  pending : Option Pending
  /-- The model's own: the number of the draw that InBuf's unwritten bytes hold since the last reset (log 3). -/
  inDraw : Nat
  /-- The model's own: the number of the next draw (log 6). -/
  draws : Nat
  /-- The model's own: what happens next, first event first (log 5). -/
  agenda : List Event
  /-- The model's own: what the accesses have returned, newest first (log 7). -/
  responses : List Response
  deriving DecidableEq, Repr

/-- The state after reset (10_state.md section 7, 70_reset_and_hazards.md R91): every register 0, nothing pending, every buffer
byte a draw. The model's own fields start empty, with draw 0 in InBuf (DESIGN CHOICE, log 10). -/
def State.reset : State where
  done := false
  haz := false
  code := .ok
  field := false
  ie := false
  inLen := 0
  outLen := 0
  cksum := 0
  decSig := 0
  decVers := 0
  decLen := 0
  decCksum := 0
  errExp := 0
  errAct := 0
  inBuf := []
  outBuf := []
  pending := none
  inDraw := 0
  draws := 1
  agenda := []
  responses := []

end Sys2Proof.Machine
end

