-- ==== Sys2Proof/Machine/Errors.lean ====
section
/-! DEFINITION. The typed errors and what each leaves in STATUS.CODE, STATUS.FIELD, ERR_EXP and ERR_ACT (60_exceptions.md R78, R81). -/

namespace Sys2Proof.Machine

/-- The two algorithm-id fields of the versions byte (30_encoding.md R48). -/
inductive AlgorithmField where
  | compression | noiseCancellation
  deriving DecidableEq, Repr

/-- The errors of 60_exceptions.md R78, with the values they carry. -/
inductive CodecError where
  /-- Code 1, ENCODE: the payload's length does not fit the length field (R61). -/
  | encodingError (act : Nat)
  /-- Code 2, DECODE: an algorithm id is not 0 (R67). -/
  | unsupportedAlgorithm (which : AlgorithmField) (act : BitVec 2)
  /-- Code 3, DECODE: declared length and actual trailing count (R69). -/
  | lengthMismatch (exp : Word) (act : Nat)
  /-- Code 4, DECODE: stored and recomputed checksum (R70). -/
  | checksumMismatch (exp act : Half)
  /-- Code 5, DECODE when `SIG_CHECK`: the signature byte found (R64). -/
  | signatureError (act : Byte)
  /-- Code 6, DECODE: the container's length, below 8 (R63). -/
  | shortContainer (act : Nat)
  /-- Code 7: the command word (30_encoding.md R55, R80). -/
  | illegalCommand (act : Word)
  /-- Code 8: `IN_CAP` and IN_LEN at accept (R80). -/
  | inLenTooLarge (exp : Nat) (act : Word)
  deriving DecidableEq, Repr

/-- STATUS.CODE for each error (R78). -/
def CodecError.code : CodecError → StatusCode
  | .encodingError _ => .encoding
  | .unsupportedAlgorithm _ _ => .unsupportedAlgo
  | .lengthMismatch _ _ => .lengthMismatch
  | .checksumMismatch _ _ => .checksumMismatch
  | .signatureError _ => .signature
  | .shortContainer _ => .short
  | .illegalCommand _ => .illegalCmd
  | .inLenTooLarge _ _ => .inLen

/-- STATUS.FIELD for each error (R81): 1 only for code 2 raised on the noise-cancellation id. -/
def CodecError.field : CodecError → Bool
  | .unsupportedAlgorithm .noiseCancellation _ => true
  | _ => false

/-- ERR_EXP for each error (table of R81). -/
def CodecError.expValue : CodecError → Word
  | .encodingError _ => 0xFFFFFFFF
  | .unsupportedAlgorithm _ _ => 0
  | .lengthMismatch exp _ => exp
  | .checksumMismatch exp _ => exp.setWidth 32
  | .signatureError _ => 0x8F
  | .shortContainer _ => 8
  | .illegalCommand _ => 0
  | .inLenTooLarge exp _ => BitVec.ofNat 32 exp

/-- ERR_ACT for each error (table of R81). The actual length of code 1 is saturated. -/
def CodecError.actValue : CodecError → Word
  | .encodingError _ => 0xFFFFFFFF
  | .unsupportedAlgorithm _ act => act.setWidth 32
  | .lengthMismatch _ act => BitVec.ofNat 32 act
  | .checksumMismatch _ act => act.setWidth 32
  | .signatureError act => act.setWidth 32
  | .shortContainer act => BitVec.ofNat 32 act
  | .illegalCommand act => act
  | .inLenTooLarge _ act => act

end Sys2Proof.Machine
end

