-- ==== Sys2Proof/Machine/Operands.lean ====
section
/-! DEFINITION. The operand fields the block assembles from bytes and takes apart: the container's header fields
(30_encoding.md R46 to R50) and the byte lanes of a bus access (20_memory.md R35, R36). -/

namespace Sys2Proof.Machine

/-- `SIGNATURE` (30_encoding.md R47). -/
def signatureByte : Byte := 0x8F

/-- `FILE_VERSION` (30_encoding.md R49). -/
def fileVersion : BitVec 4 := 0

/-- `COMP_NONE` (30_encoding.md R49). -/
def compNone : BitVec 2 := 0

/-- `NC_NONE` (30_encoding.md R49). -/
def ncNone : BitVec 2 := 0

/-- `MAX_PAYLOAD` (00_scope.md section 3). -/
def maxPayload : Nat := 2 ^ 32 - 1

/-- The fields of the versions byte (30_encoding.md R48). -/
structure Versions where
  fver : BitVec 4
  comp : BitVec 2
  nc : BitVec 2
  deriving DecidableEq, Repr

/-- `pack_versions` (40_header_encoder.md R58). -/
def packVersions (v : Versions) : Byte :=
  (v.fver.setWidth 8 <<< 4) ||| (v.comp.setWidth 8 <<< 2) ||| v.nc.setWidth 8

/-- `unpack_versions` (41_header_decoder.md R65), by the source's steps. -/
def unpackVersions (v : Byte) : Versions :=
  let alg : Byte := v &&& 0x0F
  { fver := (v >>> 4).setWidth 4, comp := (alg >>> 2).setWidth 2, nc := (alg &&& 0x3).setWidth 2 }

/-- `be32` (40_header_encoder.md R59): four bytes, most significant first. -/
def be32 (n : Word) : ByteSeq :=
  [n.extractLsb' 24 8, n.extractLsb' 16 8, n.extractLsb' 8 8, n.extractLsb' 0 8]

/-- `be32_read` of four bytes, most significant first (41_header_decoder.md R68). -/
def be32Read (b0 b1 b2 b3 : Byte) : Word :=
  (b0.setWidth 32 <<< 24) ||| (b1.setWidth 32 <<< 16) ||| (b2.setWidth 32 <<< 8) ||| b3.setWidth 32

/-- The 16-bit image of a byte pair, the first byte most significant (42_checksum_unit.md R75). -/
def pair16 (p : Byte × Byte) : Half := (p.1.setWidth 16 <<< 8) ||| p.2.setWidth 16

/-- The eight bytes of a container's header (30_encoding.md R46). -/
structure Header where
  sig : Byte
  vers : Byte
  len0 : Byte
  len1 : Byte
  len2 : Byte
  len3 : Byte
  ck0 : Byte
  ck1 : Byte
  deriving DecidableEq, Repr

/-- The header's bytes in order, offsets 0 to 7 (30_encoding.md R46). -/
def Header.bytes (h : Header) : ByteSeq := [h.sig, h.vers, h.len0, h.len1, h.len2, h.len3, h.ck0, h.ck1]

/-- The declared payload length, the big-endian value of bytes 2 to 5 (30_encoding.md R50). -/
def Header.length (h : Header) : Word := be32Read h.len0 h.len1 h.len2 h.len3

/-- The stored checksum, bytes 6 and 7 (30_encoding.md R51). -/
def Header.stored (h : Header) : Byte × Byte := (h.ck0, h.ck1)

/-- `split` (41_header_decoder.md R63): the header and the candidate payload, or a short container. -/
def splitContainer : ByteSeq → Except CodecError (Header × ByteSeq)
  | b0 :: b1 :: b2 :: b3 :: b4 :: b5 :: b6 :: b7 :: cand => .ok (⟨b0, b1, b2, b3, b4, b5, b6, b7⟩, cand)
  | bytes => .error (.shortContainer bytes.length)

/-- The read data of an access whose byte at offset `k` is `f k`: the lowest address in bits 7:0 (20_memory.md R35). No access of
another size reads (log 18). -/
def readLanes (size : AccessSize) (f : Nat → Byte) : Word :=
  match size with
  | .byte => (f 0).setWidth 32
  | .word => (f 0).setWidth 32 ||| ((f 1).setWidth 32 <<< 8) ||| ((f 2).setWidth 32 <<< 16) ||| ((f 3).setWidth 32 <<< 24)
  | .other => 0

/-- The bytes a write stores, lowest address first (20_memory.md R36). No access of another size writes (log 18). -/
def writeLanes (size : AccessSize) (wdata : Word) : ByteSeq :=
  match size with
  | .byte => [wdata.extractLsb' 0 8]
  | .word => [wdata.extractLsb' 0 8, wdata.extractLsb' 8 8, wdata.extractLsb' 16 8, wdata.extractLsb' 24 8]
  | .other => []

/-- The lane of byte offset `k` of a word. -/
def lane (w : Word) (k : Nat) : Byte := w.extractLsb' (8 * k) 8

end Sys2Proof.Machine
end

