-- ==== Sys2Proof/Machine/Flags.lean ====
section
/-! DEFINITION. The flags and register images computed from the state: STATUS, CTRL, DEC_HDR and IRQ (10_state.md R13, R14, R18, R27). -/

namespace Sys2Proof.Machine

/-- The number of a status code (60_exceptions.md R78). -/
def StatusCode.bits : StatusCode → BitVec 4
  | .ok => 0
  | .encoding => 1
  | .unsupportedAlgo => 2
  | .lengthMismatch => 3
  | .checksumMismatch => 4
  | .signature => 5
  | .short => 6
  | .illegalCmd => 7
  | .inLen => 8

/-- STATUS.BUSY: 1 exactly when a command is pending (10_state.md R26). -/
def State.busy (s : State) : Bool := s.pending.isSome

/-- STATUS.ERR equals `CODE != 0` (10_state.md R13). -/
def State.err (s : State) : Bool := s.code.bits != 0

/-- The interrupt output `IRQ = CTRL.IE & STATUS.DONE` (10_state.md R27, 60_exceptions.md R85). -/
def State.irq (s : State) : Bool := s.ie && s.done

/-- STATUS as read: bit 0 BUSY, 1 DONE, 2 ERR, 3 HAZ, 7:4 CODE, 8 FIELD, 31:9 zero (10_state.md R13). -/
def State.statusWord (s : State) : Word :=
  0#23 ++ BitVec.ofBool s.field ++ s.code.bits ++ BitVec.ofBool s.haz ++ BitVec.ofBool s.err ++ BitVec.ofBool s.done
    ++ BitVec.ofBool s.busy

/-- CTRL as read: bit 0 IE, 31:1 zero (10_state.md R14). -/
def State.ctrlWord (s : State) : Word := 0#31 ++ BitVec.ofBool s.ie

/-- DEC_HDR as read: 7:0 SIG, 15:8 VERS, 19:16 FVER, 21:20 COMP, 23:22 NC, 31:24 zero (10_state.md R18). -/
def State.decHdrWord (s : State) : Word :=
  let v := unpackVersions s.decVers
  0#8 ++ v.nc ++ v.comp ++ v.fver ++ s.decVers ++ s.decSig

end Sys2Proof.Machine
end

