-- ==== Sys2Proof/Machine/Ops.lean ====
section
/-! DEFINITION. The shared operations over memory and registers: buffer reads and writes, accept, what a completion records
(the block's one way of taking an error), dropped writes, bus responses and reset. -/

namespace Sys2Proof.Machine

/-! ## Memory -/

/-- The byte listed at an index, if any. -/
def Memory.read : Memory → Nat → Option Byte
  | [], _ => none
  | (b, w) :: m, a => if b = a then some w else Memory.read m a

/-- List a byte at an index, keeping the indices strictly rising. -/
def Memory.write : Memory → Nat → Byte → Memory
  | [], a, v => [(a, v)]
  | (b, w) :: m, a, v =>
    if a < b then (a, v) :: (b, w) :: m
    else if a = b then (a, v) :: m
    else (b, w) :: Memory.write m a v

/-- Store bytes at rising indices from `a`. -/
def Memory.writeBytes : Memory → Nat → ByteSeq → Memory
  | m, _, [] => m
  | m, a, v :: vs => Memory.writeBytes (Memory.write m a v) (a + 1) vs

/-- The memory that lists exactly these bytes, from index `a`. -/
def Memory.ofBytes (a : Nat) : ByteSeq → Memory
  | [] => []
  | v :: vs => (a, v) :: Memory.ofBytes (a + 1) vs

/-- Every listed index is at least `lo`, and the indices strictly rise. -/
def Memory.wfFrom : Nat → Memory → Bool
  | _, [] => true
  | lo, (b, _) :: m => decide (lo ≤ b) && Memory.wfFrom (b + 1) m

/-- The canonical form: strictly rising indices. No entry can equal what an unlisted index reads as, which is no listed value (log 8). -/
def Memory.wf (m : Memory) : Bool := Memory.wfFrom 0 m

/-- Every listed index is below `cap`. -/
def Memory.below (cap : Nat) (m : Memory) : Bool := m.all (fun cell => decide (cell.1 < cap))

/-! ## Buffers -/

/-- `InBuf[i]` (10_state.md R24): the byte the host wrote since reset, else the byte reset drew. -/
def State.inByte (c : Config) (s : State) (i : Nat) : Byte :=
  (Memory.read s.inBuf i).getD (c.inBufDraw s.inDraw i)

/-- `InBuf[0 .. min(len, IN_CAP))` (10_state.md R26). -/
def State.inPrefix (c : Config) (s : State) (len : Word) : ByteSeq :=
  (List.range (min len.toNat c.inCap)).map (s.inByte c)

/-- `OutBuf[j]` where the spec defines it: below OUT_LEN (10_state.md R25) and not while BUSY (70_reset_and_hazards.md R97). -/
def State.outByte (s : State) (j : Nat) : Option Byte :=
  if s.busy then none else if j < s.outLen.toNat then Memory.read s.outBuf j else none

/-! ## The input of a command -/

/-- What a command takes as input: IN_LEN and the input bytes as they stood at accept (10_state.md R26). -/
structure Input where
  len : Word
  data : ByteSeq
  deriving DecidableEq, Repr

/-- What an accept samples now (70_reset_and_hazards.md R93). -/
def State.sample (c : Config) (s : State) : Input := ⟨s.inLen, s.inPrefix c s.inLen⟩

/-- The input of the command being completed: that of the pending slot. In a state with nothing pending, where no step completes a
command, it is what an accept would sample (log 1). -/
def State.input (c : Config) (s : State) : Input :=
  match s.pending with
  | some p => ⟨p.len, p.data⟩
  | none => s.sample c

/-! ## Accept and dropped writes -/

/-- The accept step of an idle unit (70_reset_and_hazards.md R93). -/
def State.accept (c : Config) (w : Word) (s : State) : State :=
  { s with
    pending := some ⟨w, (s.sample c).len, (s.sample c).data⟩
    done := false
    code := .ok
    field := false }

/-- A write dropped because BUSY is 1 (70_reset_and_hazards.md R96). -/
def State.dropWrite (s : State) : State := { s with haz := true }

/-! ## Completion -/

/-- What a completion leaves in OutBuf. -/
inductive OutResult where
  /-- A successful ENCODE or DECODE: `OutBuf[0 .. len)` holds these bytes, the rest are draws (10_state.md R25). -/
  | bytes (r : ByteSeq)
  /-- CHECKSUM: OutBuf is not written (42_checksum_unit.md R76). -/
  | kept
  /-- A failed command: every byte is a draw (60_exceptions.md R82). -/
  | undefined
  deriving DecidableEq, Repr

/-- OUT_LEN after a completion (10_state.md R16). -/
def OutResult.length : OutResult → Word
  | .bytes r => BitVec.ofNat 32 r.length
  | .kept => 0
  | .undefined => 0

/-- OutBuf after a completion. -/
def OutResult.memory : OutResult → Memory → Memory
  | .bytes r, _ => Memory.ofBytes 0 r
  | .kept, m => m
  | .undefined, _ => []

/-- What a completion writes: every result register (10_state.md R28). -/
structure Results where
  code : StatusCode
  field : Bool
  errExp : Word
  errAct : Word
  cksum : Half
  decSig : Byte
  decVers : Byte
  decLen : Word
  decCksum : Half
  out : OutResult
  deriving DecidableEq, Repr

/-- The results of a command that succeeds: code 0, FIELD 0, ERR_EXP 0, ERR_ACT 0 (60_exceptions.md R81). DEC_HDR, DEC_LEN and
DEC_CKSUM come from the header the command parsed, and are 0 if it parsed none (10_state.md R18, R19, R20). -/
def Results.success (cksum : Half) (header : Option Header) (out : OutResult) : Results where
  code := .ok
  field := false
  errExp := 0
  errAct := 0
  cksum := cksum
  decSig := (header.map (·.sig)).getD 0
  decVers := (header.map (·.vers)).getD 0
  decLen := (header.map (·.length)).getD 0
  decCksum := (header.map (fun h => pair16 h.stored)).getD 0
  out := out

/-- The results of a command that fails (60_exceptions.md R81, R82): the error's code, field and values, and no output. -/
def Results.failure (e : CodecError) (cksum : Half) (header : Option Header) : Results :=
  { Results.success cksum header .undefined with
    code := e.code
    field := e.field
    errExp := e.expValue
    errAct := e.actValue }

/-- The completion step's writes, all in one step (60_exceptions.md R83, 70_reset_and_hazards.md R94): the results, DONE set and
Pending (so BUSY) cleared. -/
def State.complete (r : Results) (s : State) : State :=
  { s with
    done := true
    code := r.code
    field := r.field
    outLen := r.out.length
    cksum := r.cksum
    decSig := r.decSig
    decVers := r.decVers
    decLen := r.decLen
    decCksum := r.decCksum
    errExp := r.errExp
    errAct := r.errAct
    outBuf := r.out.memory s.outBuf
    pending := none }

/-- The command-level length check, before the command runs (60_exceptions.md R80): code 8 when IN_LEN exceeds `IN_CAP`. -/
def checkInLen (c : Config) (x : Input) (command : Results) : Results :=
  if c.inCap < x.len.toNat then .failure (.inLenTooLarge c.inCap x.len) 0 none else command

/-- The results of an illegal command word (30_encoding.md R55, 60_exceptions.md R80, R81): code 7. -/
def illegalResults (w : Word) : Results := .failure (.illegalCommand w) 0 none

/-! ## Responses and reset -/

/-- Answer a bus access (20_memory.md R30). The model notes the answer and moves on to the next draw number (log 6, log 7). -/
def State.respond (r : Response) (s : State) : State :=
  { s with responses := r :: s.responses, draws := s.draws + 1 }

/-- The reset step (70_reset_and_hazards.md R91): the state after reset, with a new draw for InBuf. What is still to happen and what
the host has been answered are not the unit's state and stay. -/
def State.resetStep (s : State) : State :=
  { State.reset with inDraw := s.draws, draws := s.draws + 1, agenda := s.agenda, responses := s.responses }

end Sys2Proof.Machine
end

