-- ==== Sys2Proof/Machine/Bus.lean ====
section
/-! DEFINITION. The host port: address map, access checks, register reads and writes, buffer windows (20_memory.md), with the
hazards of 70_reset_and_hazards.md R96, R97, R98. -/

namespace Sys2Proof.Machine

/-- The regions of the address map (20_memory.md R31). -/
inductive Region where
  | reg | inBuf | outBuf | unmapped
  deriving DecidableEq, Repr

/-- Where the IN_BUF window begins (R31). -/
def inBase : Nat := 0x40000000

/-- Where the OUT_BUF window begins (R31). -/
def outBase : Nat := 0x80000000

/-- `region(addr)` (R31). -/
def regionOf (c : Config) (a : Nat) : Region :=
  if a < 0x1000 then .reg
  else if inBase ≤ a ∧ a < inBase + c.inCap then .inBuf
  else if outBase ≤ a ∧ a < outBase + c.outCap then .outBuf
  else .unmapped

/-- True when the access gets ERROR: a size that is not legal (log 18), then the tests of R32 in their order. `addr + 3` is computed
without wrapping (log 12). -/
def accessError (c : Config) (a : Access) : Bool :=
  let addr := a.addr.toNat
  if a.size = .other then true
  else if regionOf c addr = .unmapped then true
  else if a.size = .word ∧ addr % 4 ≠ 0 then true
  else if a.size = .word ∧ regionOf c (addr + 3) ≠ regionOf c addr then true
  else if a.size = .byte ∧ regionOf c addr = .reg then true
  else if a.kind = .write ∧ regionOf c addr = .outBuf then true
  else false

/-- The registers of the map (10_state.md R11). -/
inductive Reg where
  | cmd | status | ctrl | inLen | outLen | cksum | decHdr | decLen | decCksum | errExp | errAct
  deriving DecidableEq, Repr

/-- The offset of each register (10_state.md R11). -/
def Reg.offset : Reg → Nat
  | .cmd => 0x000
  | .status => 0x004
  | .ctrl => 0x008
  | .inLen => 0x00C
  | .outLen => 0x010
  | .cksum => 0x014
  | .decHdr => 0x018
  | .decLen => 0x01C
  | .decCksum => 0x020
  | .errExp => 0x024
  | .errAct => 0x028

/-- Every register. -/
def Reg.all : List Reg :=
  [.cmd, .status, .ctrl, .inLen, .outLen, .cksum, .decHdr, .decLen, .decCksum, .errExp, .errAct]

/-- The register at an offset; none at a reserved offset (10_state.md R11, R23). -/
def regAt (o : Nat) : Option Reg := Reg.all.find? (fun r => r.offset == o)

/-- The result registers whose reads are draws while BUSY (70_reset_and_hazards.md R97). -/
def Reg.isResult : Reg → Bool
  | .outLen | .cksum | .decHdr | .decLen | .decCksum | .errExp | .errAct => true
  | .cmd | .status | .ctrl | .inLen => false

/-- The value of a register as read, RSVD bits 0 (10_state.md R12 to R23). -/
def State.readReg (s : State) : Reg → Word
  | .cmd => 0
  | .status => s.statusWord
  | .ctrl => s.ctrlWord
  | .inLen => s.inLen
  | .outLen => s.outLen
  | .cksum => s.cksum.setWidth 32
  | .decHdr => s.decHdrWord
  | .decLen => s.decLen
  | .decCksum => s.decCksum.setWidth 32
  | .errExp => s.errExp
  | .errAct => s.errAct

/-- A register read over the bus: a draw for a result register while BUSY (70_reset_and_hazards.md R97). -/
def State.busReadReg (c : Config) (s : State) (r : Reg) : Word :=
  if s.busy && r.isResult then c.freeWord s.draws else s.readReg r

/-- A write to CMD: the accept step, or a dropped write while BUSY (70_reset_and_hazards.md R93, R96). -/
def State.writeCmd (c : Config) (w : Word) (s : State) : State :=
  if s.busy then s.dropWrite else s.accept c w

/-- A write to STATUS: W1C on DONE (bit 1) and HAZ (bit 3) (10_state.md R13). -/
def State.writeStatus (w : Word) (s : State) : State :=
  { s with done := s.done && !w.getLsbD 1, haz := s.haz && !w.getLsbD 3 }

/-- A write to CTRL: bit 0 is stored, the rest dropped (10_state.md R14). -/
def State.writeCtrl (w : Word) (s : State) : State := { s with ie := w.getLsbD 0 }

/-- A write to IN_LEN: all 32 bits stored, or dropped while BUSY (10_state.md R15, 70_reset_and_hazards.md R96). -/
def State.writeInLen (w : Word) (s : State) : State :=
  if s.busy then s.dropWrite else { s with inLen := w }

/-- A register write over the bus (20_memory.md R34): read-only registers ignore it. -/
def State.writeReg (c : Config) (r : Reg) (w : Word) (s : State) : State :=
  match r with
  | .cmd => s.writeCmd c w
  | .status => s.writeStatus w
  | .ctrl => s.writeCtrl w
  | .inLen => s.writeInLen w
  | .outLen | .cksum | .decHdr | .decLen | .decCksum | .errExp | .errAct => s

/-- A write in the IN_BUF region at index `i` (20_memory.md R36), dropped while BUSY (70_reset_and_hazards.md R96). -/
def State.writeInBuf (i : Nat) (bytes : ByteSeq) (s : State) : State :=
  if s.busy then s.dropWrite else { s with inBuf := Memory.writeBytes s.inBuf i bytes }

/-- A byte of OUT_BUF as read: its value where the spec defines one, else lane `k` of the access's draw (20_memory.md R37). -/
def State.busOutByte (c : Config) (s : State) (j k : Nat) : Byte :=
  (s.outByte (j + k)).getD (lane (c.freeWord s.draws) k)

/-- The read data of an access that passed the tests of R32 (20_memory.md R34, R35, R37). -/
def busRead (c : Config) (a : Access) (s : State) : Word :=
  let addr := a.addr.toNat
  match regionOf c addr with
  | .reg =>
    match regAt addr with
    | some r => s.busReadReg c r
    | none => 0
  | .inBuf => readLanes a.size (fun k => s.inByte c (addr - inBase + k))
  | .outBuf => readLanes a.size (s.busOutByte c (addr - outBase))
  | .unmapped => 0

/-- The effect of a write that passed the tests of R32 (20_memory.md R34, R36). No write to OUT_BUF or an unmapped address passes. -/
def busWrite (c : Config) (a : Access) (s : State) : State :=
  let addr := a.addr.toNat
  match regionOf c addr with
  | .reg =>
    match regAt addr with
    | some r => s.writeReg c r a.wdata
    | none => s
  | .inBuf => s.writeInBuf (addr - inBase) (writeLanes a.size a.wdata)
  | .outBuf => s
  | .unmapped => s

/-- A bus access (20_memory.md R30, R32, R33): ERROR with no state change and read data 0, or performed with response OKAY. A
write's read data means nothing (R30); the model answers 0 (log 7). -/
def busAccess (c : Config) (a : Access) (s : State) : State :=
  if accessError c a then s.respond ⟨.error, 0⟩
  else
    match a.kind with
    | .read => s.respond ⟨.okay, busRead c a s⟩
    | .write => (busWrite c a s).respond ⟨.okay, 0⟩

end Sys2Proof.Machine
end

