-- ==== Sys2Proof/Machine/ChecksumUnit.lean ====
section
/-! DEFINITION. checksum_unit (42_checksum_unit.md): truncation of the digest, its register image, and the CHECKSUM command. -/

namespace Sys2Proof.Machine

/-- `cs2`, the first two bytes of the digest in output order (R74). -/
def cs2 (c : Config) (p : ByteSeq) : Byte × Byte :=
  let d := c.digest p
  have h : 1 < d.length := by simp [d, Config.digest, Config.digestLen]
  (d[0], d[1])

/-- `cs16`, the register image of the checksum (R75). -/
def cs16 (c : Config) (p : ByteSeq) : Half := pair16 (cs2 c p)

/-- What a CHECKSUM command computes (R76). -/
def checksumResults (c : Config) (x : Input) : Results :=
  checkInLen c x (.success (cs16 c x.data) none .kept)

/-- CHECKSUM (R76). -/
def execChecksum (s : State) : Host.Outcome State Fault Refusal :=
  .next (s.complete (checksumResults Config.unit (s.input Config.unit)))

end Sys2Proof.Machine
end

