-- ==== Sys2Proof/Machine/HeaderDecoder.lean ====
section
/-! DEFINITION. header_decoder (41_header_decoder.md): the checks in their order, the abstract decode, and the DECODE command.
`splitContainer`, `unpackVersions` and `be32Read` (R63, R65, R68) stand in Operands.lean. The version nibble is checked by nothing (R66). -/

namespace Sys2Proof.Machine

/-- `check_signature` (R64). -/
def checkSignature (c : Config) (h : Header) : Except CodecError Unit :=
  if c.sigCheck && h.sig != signatureByte then .error (.signatureError h.sig) else .ok ()

/-- `check_algorithms` (R67), compression first. -/
def checkAlgorithms (v : Versions) : Except CodecError Unit :=
  if v.comp != compNone then .error (.unsupportedAlgorithm .compression v.comp)
  else if v.nc != ncNone then .error (.unsupportedAlgorithm .noiseCancellation v.nc)
  else .ok ()

/-- `check_length` (R69). -/
def checkLength (declared : Word) (cand : ByteSeq) : Except CodecError Unit :=
  if cand.length ≠ declared.toNat then .error (.lengthMismatch declared cand.length) else .ok ()

/-- `verify_checksum` (R70): the recomputed checksum against the stored one, byte for byte (90_conflicts.md C2). -/
def verifyChecksum (c : Config) (h : Header) (cand : ByteSeq) : Except CodecError Unit :=
  if cs2 c cand ≠ h.stored then .error (.checksumMismatch (pair16 h.stored) (cs16 c cand)) else .ok ()

/-- The stages of `decode` before `verify_checksum`, in their fixed order (R71): codes 6, 5, 2, 3. -/
def checkHeader (c : Config) (bytes : ByteSeq) : Except CodecError (Header × ByteSeq) := do
  let (h, cand) ← splitContainer bytes
  checkSignature c h
  checkAlgorithms (unpackVersions h.vers)
  checkLength h.length cand
  return (h, cand)

/-- `decode` (R71). -/
def decodeContainer (c : Config) (bytes : ByteSeq) : Except CodecError ByteSeq := do
  let (h, cand) ← checkHeader c bytes
  verifyChecksum c h cand
  return cand

/-- The header a DECODE parses: there is one when the container has at least 8 bytes (R72). -/
def parsedHeader (bytes : ByteSeq) : Option Header :=
  match splitContainer bytes with
  | .ok (h, _) => some h
  | .error _ => none

/-- CKSUM after a DECODE: the candidate's checksum if `verify_checksum` was reached, else 0 (R72, 10_state.md R17). -/
def decodeCksum (c : Config) (bytes : ByteSeq) : Half :=
  match checkHeader c bytes with
  | .ok (_, cand) => cs16 c cand
  | .error _ => 0

/-- What a DECODE command computes (R72). -/
def decodeResults (c : Config) (x : Input) : Results :=
  checkInLen c x
    (match decodeContainer c x.data with
    | .ok p => .success (decodeCksum c x.data) (parsedHeader x.data) (.bytes p)
    | .error e => .failure e (decodeCksum c x.data) (parsedHeader x.data))

/-- DECODE (R72). -/
def execDecode (s : State) : Host.Outcome State Fault Refusal :=
  .next (s.complete (decodeResults Config.unit (s.input Config.unit)))

end Sys2Proof.Machine
end

