-- ==== Sys2Proof/Machine/HeaderEncoder.lean ====
section
/-! DEFINITION. header_encoder (40_header_encoder.md): the header builder, the abstract encode, and the ENCODE command. -/

namespace Sys2Proof.Machine

/-- `encode_header` (R60). -/
def encodeHeader (c : Config) (p : ByteSeq) : ByteSeq :=
  [signatureByte, packVersions ⟨fileVersion, compNone, ncNone⟩] ++ be32 (BitVec.ofNat 32 p.length)
    ++ [(cs2 c p).1, (cs2 c p).2]

/-- `encode` (R61). -/
def encodeContainer (c : Config) (p : ByteSeq) : Except CodecError ByteSeq :=
  if maxPayload < p.length then .error (.encodingError p.length) else .ok (encodeHeader c p ++ p)

/-- What an ENCODE command computes (R62). Where `encode` fails, which no reachable state shows (60_exceptions.md R79), CKSUM is 0 (log 9). -/
def encodeResults (c : Config) (x : Input) : Results :=
  checkInLen c x
    (match encodeContainer c x.data with
    | .ok r => .success (cs16 c x.data) none (.bytes r)
    | .error e => .failure e 0 none)

/-- ENCODE (R62). -/
def execEncode (s : State) : Host.Outcome State Fault Refusal :=
  .next (s.complete (encodeResults Config.unit (s.input Config.unit)))

end Sys2Proof.Machine
end

