-- ==== Sys2Proof/Machine/Agents.lean ====
section
/-! DEFINITION. One step of each agent (10_state.md R9): the host's access, the unit's completion, the reset input. -/

namespace Sys2Proof.Machine

/-- The unit's turn: the completion step of 70_reset_and_hazards.md R94. The pending word is decoded and its command run, or code 7
recorded for an illegal word (60_exceptions.md R80). With nothing pending the step is not enabled, and nothing happens. -/
def unitTurn (s : State) : Host.Outcome State Fault Refusal :=
  match s.pending with
  | none => .next s
  | some p =>
    match decodeWord p.word with
    | .ok i => exec i s
    | .error _ => .next (s.complete (illegalResults p.word))

/-- One event on the unit that `Sys2Proof.core` models. -/
def takeEvent (e : Event) (s : State) : Host.Outcome State Fault Refusal :=
  match e with
  | .access a => .next (busAccess Config.unit a s)
  | .complete => unitTurn s
  | .reset => .next s.resetStep

/-- The event that happens next and the state with it taken off the agenda. With an empty agenda it is the unit's turn, so that a
pending command completes (70_reset_and_hazards.md R95; log 5). -/
def nextEvent (s : State) : Event × State :=
  match s.agenda with
  | [] => (.complete, s)
  | e :: rest => (e, { s with agenda := rest })

/-- Place a command in the pending slot as the accept step does (70_reset_and_hazards.md R93) and give the unit the next turn (log 13). -/
def placeCommand (w : Word) (s : State) : State :=
  { s.accept Config.unit w with agenda := .complete :: s.agenda }

/-- `complete(word, len, data)` of 60_exceptions.md R80, for a unit of any configuration. -/
def completion (c : Config) (p : Pending) : Results :=
  match decodeWord p.word with
  | .error _ => illegalResults p.word
  | .ok .encode => encodeResults c ⟨p.len, p.data⟩
  | .ok .decode => decodeResults c ⟨p.len, p.data⟩
  | .ok .checksum => checksumResults c ⟨p.len, p.data⟩

/-- One event on a unit of any configuration (10_state.md R10: the configuration is a parameter of the step). -/
def eventStep (c : Config) (e : Event) (s : State) : State :=
  match e with
  | .access a => busAccess c a s
  | .complete =>
    match s.pending with
    | none => s
    | some p => s.complete (completion c p)
  | .reset => s.resetStep

end Sys2Proof.Machine
end

