-- ==== Sys2Proof/Machine/Step.lean ====
section
/-! DEFINITION. One step of the machine: the next event of the agenda. -/

namespace Sys2Proof.Machine

/-- One step: take the next event. -/
def step (s : State) : Host.Outcome State Fault Refusal := takeEvent (nextEvent s).1 (nextEvent s).2

/-- The state whose very next step runs the command of this word: the host's CMD write stands accepted, and it is the unit's turn. -/
def State.withFetchWord (s : State) (nbits w : Nat) : State := placeCommand (tableWord nbits w) s

end Sys2Proof.Machine
end

