-- ==== Sys2Proof/Machine/Script.lean ====
section
/-! DEFINITION. The host script notation (30_encoding.md R57): statements, pseudo-statements, and a host that runs a script
against one unit. The host's variables and its place in the script are the host's, not the unit's (10_state.md R29). -/

namespace Sys2Proof.Machine

/-- A statement of the notation. Variables and labels are numbered. -/
inductive ScriptStmt where
  /-- `W32 addr, v` -/
  | w32 (addr v : Word)
  /-- `W8 addr, v` -/
  | w8 (addr v : Word)
  /-- `R32 addr -> t` -/
  | r32 (addr : Word) (t : Nat)
  /-- `R8 addr -> t` -/
  | r8 (addr : Word) (t : Nat)
  /-- `label:` -/
  | label (l : Nat)
  /-- `BIT t, m, label` -/
  | bit (t : Nat) (m : Word) (l : Nat)
  deriving DecidableEq, Repr

/-- A script. -/
abbrev Script := List ScriptStmt

/-- The address a register's name stands for (R57). -/
def Reg.addr (r : Reg) : Word := BitVec.ofNat 32 r.offset

/-- `IN+i` (R57). -/
def inAddr (i : Nat) : Word := BitVec.ofNat 32 (inBase + i)

/-- `OUT+i` (R57). -/
def outAddr (i : Nat) : Word := BitVec.ofNat 32 (outBase + i)

/-- `MemRead(addr, n)` (20_memory.md R30). -/
def memRead (addr : Word) (size : AccessSize) : Access := ⟨.read, addr, size, 0⟩

/-- `MemWrite(addr, n, v)` (20_memory.md R30). -/
def memWrite (addr : Word) (size : AccessSize) (v : Word) : Access := ⟨.write, addr, size, v⟩

/-- A pseudo-statement (R57). `WAIT` is given its fresh label and its variable. -/
inductive PseudoStmt where
  | encode
  | decode
  | checksum
  | wait (l t : Nat)
  | ack
  | put (i : Nat) (bytes : ByteSeq)
  deriving DecidableEq, Repr

/-- One `W8` per byte from `IN+i`. -/
def putStmts (i : Nat) : ByteSeq → Script
  | [] => []
  | b :: bs => .w8 (inAddr i) (b.setWidth 32) :: putStmts (i + 1) bs

/-- The expansion of a pseudo-statement (table of R57). -/
def PseudoStmt.expand : PseudoStmt → Script
  | .encode => [.w32 Reg.cmd.addr 0x1]
  | .decode => [.w32 Reg.cmd.addr 0x2]
  | .checksum => [.w32 Reg.cmd.addr 0x3]
  | .wait l t => [.label l, .r32 Reg.status.addr t, .bit t 0x1 l]
  | .ack => [.w32 Reg.status.addr 0xA]
  | .put i bytes => putStmts i bytes

/-- The bus access of a statement, if it makes one. -/
def ScriptStmt.access : ScriptStmt → Option Access
  | .w32 addr v => some (memWrite addr .word v)
  | .w8 addr v => some (memWrite addr .byte v)
  | .r32 addr _ => some (memRead addr .word)
  | .r8 addr _ => some (memRead addr .byte)
  | .label _ => none
  | .bit _ _ _ => none

/-- A host running a script on a unit. -/
structure ScriptState where
  pc : Nat
  vars : List (Nat × Word)
  unit : State
  deriving DecidableEq, Repr

/-- The value of a variable; none if nothing has set it. -/
def lookupVar : List (Nat × Word) → Nat → Option Word
  | [], _ => none
  | (u, v) :: vs, t => if u = t then some v else lookupVar vs t

/-- Where a label stands. -/
def labelAt (l : Nat) : Script → Option Nat
  | [] => none
  | st :: rest => if st = .label l then some 0 else (labelAt l rest).map (· + 1)

/-- The read data of the newest response. -/
def State.lastData (s : State) : Word :=
  match s.responses with
  | r :: _ => r.rdata
  | [] => 0

/-- The host executes its next statement. It is at an end (none) past the script's last statement, and where a BIT names a variable
nothing has set or a label the script lacks (log 14). -/
def scriptStep (c : Config) (prog : Script) (h : ScriptState) : Option ScriptState :=
  match prog[h.pc]? with
  | none => none
  | some st =>
    match st with
    | .w32 addr v => some { h with pc := h.pc + 1, unit := busAccess c (memWrite addr .word v) h.unit }
    | .w8 addr v => some { h with pc := h.pc + 1, unit := busAccess c (memWrite addr .byte v) h.unit }
    | .r32 addr t =>
      let u := busAccess c (memRead addr .word) h.unit
      some { pc := h.pc + 1, vars := (t, u.lastData) :: h.vars, unit := u }
    | .r8 addr t =>
      let u := busAccess c (memRead addr .byte) h.unit
      some { pc := h.pc + 1, vars := (t, u.lastData) :: h.vars, unit := u }
    | .label _ => some { h with pc := h.pc + 1 }
    | .bit t m l =>
      match lookupVar h.vars t, labelAt l prog with
      | some v, some target => some { h with pc := if v &&& m ≠ 0 then target else h.pc + 1 }
      | _, _ => none

/-- Run a script under a schedule: `true` lets the host execute a statement, `false` gives the unit its turn. -/
def scriptRun (c : Config) (prog : Script) : List Bool → ScriptState → ScriptState
  | [], h => h
  | true :: sched, h => scriptRun c prog sched ((scriptStep c prog h).getD h)
  | false :: sched, h => scriptRun c prog sched { h with unit := eventStep c .complete h.unit }

end Sys2Proof.Machine
end

