-- ==== Sys2Proof/Machine/System.lean ====
section
/-! DEFINITION. A system of `N_UNITS` units that share nothing (00_scope.md R6, 60_exceptions.md R89). -/

namespace Sys2Proof.Machine

/-- One unit of a system: its own configuration and its own state. -/
structure SystemUnit where
  cfg : Config
  state : State

/-- The units of a system. Each has its own address space and its own agenda. -/
abbrev System := List SystemUnit

/-- One step of a unit: its next event, under its own configuration. -/
def SystemUnit.step (u : SystemUnit) : SystemUnit :=
  { u with state := eventStep u.cfg (nextEvent u.state).1 (nextEvent u.state).2 }

/-- Unit `k` takes a step. -/
def System.stepUnit (k : Nat) (sys : System) : System := sys.modify k SystemUnit.step

/-- Units take steps in the given order. -/
def System.run (order : List Nat) (sys : System) : System := order.foldl (fun t k => System.stepUnit k t) sys

/-- Every unit as it comes out of reset (R89). -/
def System.reset : System := (List.range Config.nUnits).map (fun k => ⟨Config.ofUnit k, State.reset⟩)

end Sys2Proof.Machine
end

