-- ==== Sys2Proof/Safety.lean ====
section
/-! DEFINITION. The terms claims are stated in: the invariant of every state a run can reach, valid containers, and what a completion
leaves. -/

namespace Sys2Proof.Machine

/-- The invariant of a unit with configuration `c`. -/
structure State.Inv (c : Config) (s : State) : Prop where
  /-- InBuf is in canonical form and inside its `IN_CAP` bytes (10_state.md R24). -/
  inBuf_wf : Memory.wf s.inBuf = true
  inBuf_below : Memory.below c.inCap s.inBuf = true
  /-- OutBuf is in canonical form and inside its `OUT_CAP` bytes (10_state.md R25). -/
  outBuf_wf : Memory.wf s.outBuf = true
  outBuf_below : Memory.below c.outCap s.outBuf = true
  /-- The whole result stands in `OutBuf[0 .. OUT_LEN)` (10_state.md R25). -/
  out_defined : ∀ j, j < s.outLen.toNat → (Memory.read s.outBuf j).isSome = true
  /-- The pending snapshot equals IN_LEN and the live InBuf prefix (10_state.md R26). -/
  snapshot : ∀ p, s.pending = some p → p.len = s.inLen ∧ p.data = s.inPrefix c s.inLen
  /-- While BUSY, DONE, CODE and FIELD are clear (70_reset_and_hazards.md R93). -/
  busy_clear : s.busy = true → s.done = false ∧ s.code = .ok ∧ s.field = false
  /-- FIELD is 0 for every code but 2 (10_state.md R13). -/
  field_code : s.field = true → s.code = .unsupportedAlgo
  /-- Code 1 cannot occur (60_exceptions.md R79). -/
  no_encoding_error : s.code ≠ .encoding
  /-- A failed command leaves OUT_LEN 0 (60_exceptions.md R82). -/
  failed_empty : s.code ≠ .ok → s.outLen = 0
  /-- ERR_EXP and ERR_ACT are 0 after a success (10_state.md R21, R22). -/
  success_clean : s.busy = false → s.code = .ok → s.errExp = 0 ∧ s.errAct = 0

/-- The agenda holds no reset. -/
def State.noReset (s : State) : Prop := Event.reset ∉ s.agenda

/-- The length that header bytes 2 to 5 declare, most significant byte first (30_encoding.md R50). -/
def Header.declared (h : Header) : Nat :=
  h.len0.toNat * 2 ^ 24 + h.len1.toNat * 2 ^ 16 + h.len2.toNat * 2 ^ 8 + h.len3.toNat

/-- A header followed by a payload is a valid container for DECODE (30_encoding.md R52, conditions (b) to (e); (b) only when
`SIG_CHECK`). Condition (a), at least 8 bytes, holds because the header is there. -/
structure Header.ValidFor (c : Config) (h : Header) (payload : ByteSeq) : Prop where
  signature : c.sigCheck = true → h.sig = 0x8F
  compression : h.vers.extractLsb' 2 2 = 0
  noiseCancellation : h.vers.extractLsb' 0 2 = 0
  length : h.declared = payload.length
  checksum : h.ck0 = c.digestByte payload 0 ∧ h.ck1 = c.digestByte payload 1

/-- What every completion does to the status bits it always writes and to the DEC registers and CKSUM, given their new values
(60_exceptions.md R83, 10_state.md R28). -/
def State.completedWith (s : State) (sig vers : Byte) (len : Word) (stored cksum : Half) : State :=
  { s with done := true, pending := none, decSig := sig, decVers := vers, decLen := len, decCksum := stored, cksum := cksum }

/-- A successful completion with `OUT_LEN` and the bytes OutBuf then defines (60_exceptions.md R81). -/
def State.succeededWith (s : State) (outLen : Word) (outBuf : Memory) : State :=
  { s with code := .ok, field := false, errExp := 0, errAct := 0, outLen := outLen, outBuf := outBuf }

/-- A failed completion: its code, FIELD and values, and no result (60_exceptions.md R81, R82). -/
def State.failedWith (s : State) (code : StatusCode) (field : Bool) (exp act : Word) : State :=
  { s with code := code, field := field, errExp := exp, errAct := act, outLen := 0, outBuf := [] }

/-- A completion of a DECODE that parsed header `h` (41_header_decoder.md R72), with CKSUM as given. -/
def State.decodedWith (s : State) (h : Header) (cksum : Half) : State :=
  s.completedWith h.sig h.vers (BitVec.ofNat 32 h.declared) (h.ck0 ++ h.ck1) cksum

/-- A completion that parsed no header (10_state.md R18, R19, R20), with CKSUM as given. -/
def State.completedPlain (s : State) (cksum : Half) : State := s.completedWith 0 0 0 0 cksum

/-- The registers a completion writes are equal in two states, and so are the bytes OutBuf defines (10_state.md R28). -/
structure State.SameResults (s t : State) : Prop where
  done : s.done = t.done
  code : s.code = t.code
  field : s.field = t.field
  outLen : s.outLen = t.outLen
  cksum : s.cksum = t.cksum
  decSig : s.decSig = t.decSig
  decVers : s.decVers = t.decVers
  decLen : s.decLen = t.decLen
  decCksum : s.decCksum = t.decCksum
  errExp : s.errExp = t.errExp
  errAct : s.errAct = t.errAct
  out : ∀ j, s.outByte j = t.outByte j

end Sys2Proof.Machine
end

