-- ==== Sys2Proof/Certificates/Slice0/Obligations.lean ====
section
/-! DEFINITION. The statements for the provers. `Config.unit` is the configuration of the unit that `core` models; it has no body, so a
statement about it holds for every configuration. `nextEvent s = (e, u)` says that `e` is what happens next in `s` and that `u` is `s`
with `e` taken off the agenda and nothing else changed. -/

open Sys2Proof Sys2Proof.Machine

/-! ## Steps and decoding -/

/-- When the unit's turn comes and its pending word decodes to a command, the step is that command (70_reset_and_hazards.md R94). The
model's step adds only that the event is taken off the agenda (log 5). -/
def Obligations.StepRunsDecodedCommand : Prop :=
  ∀ (s u : State) (p : Pending) (i : Instr), nextEvent s = (.complete, u) → s.pending = some p → decodeWord p.word = .ok i →
    step s = exec i u ∧ u = { s with agenda := s.agenda.tail }

/-- The model's way of loading a command (log 13): the very next step of `s.withFetchWord 32 w` runs the command of `w`, on the state
that the accept step leaves. -/
def Obligations.FetchedWordRunsNext : Prop :=
  ∀ (s : State) (w : Nat) (i : Instr), decodeTableWord 32 w = some i →
    step (s.withFetchWord 32 w) = exec i (s.accept Config.unit (BitVec.ofNat 32 w))

/-- The words of the opcode map (30_encoding.md R54) and some illegal ones (R55), whose two names are the model's choice (log 17). -/
def Obligations.OpcodeMapWordsDecode : Prop :=
  decodeWord 0x00000001 = .ok .encode ∧ decodeWord 0x00000002 = .ok .decode ∧ decodeWord 0x00000003 = .ok .checksum ∧
    decodeWord 0x00000000 = .error .undefinedOp ∧ decodeWord 0x0000000F = .error .undefinedOp ∧
    decodeWord 0x00000011 = .error .reservedBits ∧ decodeWord 0x80000001 = .error .reservedBits

/-- A word selects a command exactly when it is that command's whole word (30_encoding.md R54). -/
def Obligations.WordSelectsCommandExactly : Prop :=
  (∀ (w : Word) (i : Instr), decodeWord w = .ok i ↔ w = encodeWord i) ∧
    encodeWord .encode = 0x00000001 ∧ encodeWord .decode = 0x00000002 ∧ encodeWord .checksum = 0x00000003

/-- Every other word is rejected (30_encoding.md R55), by name. R55 does not tell the two reasons apart: the names, and that a word with
a reserved bit set is named for it whatever its `OP` is, are the model's choice (log 17). -/
def Obligations.IllegalWordsRejectedByName : Prop :=
  ∀ w : Word, (decodeWord w = .error .reservedBits ↔ 16 ≤ w.toNat) ∧
    (decodeWord w = .error .undefinedOp ↔ w.toNat = 0 ∨ (4 ≤ w.toNat ∧ w.toNat < 16))

/-! ## Commands -/

/-- Every command completes in every state: DONE set, Pending and so BUSY cleared, the result registers written; and its frame: HAZ, CTRL, IN_LEN, every
byte of InBuf and the model's own fields are unchanged. -/
def Obligations.EveryCommandCompletesWithinFrame : Prop :=
  ∀ (i : Instr) (s : State), ∃ t, exec i s = .next t ∧ t.done = true ∧ t.pending = none ∧ t.busy = false ∧
    t.haz = s.haz ∧ t.ie = s.ie ∧ t.inLen = s.inLen ∧ t.inBuf = s.inBuf ∧ (∀ k, t.inByte Config.unit k = s.inByte Config.unit k) ∧
    t.inDraw = s.inDraw ∧ t.draws = s.draws ∧ t.agenda = s.agenda ∧ t.responses = s.responses ∧
    (∀ j, t.outLen.toNat ≤ j → t.outByte j = none)

/-- ENCODE (40_header_encoder.md R62): the header and the payload in OutBuf, OUT_LEN, CKSUM, and every other result register 0. The
record says the frame too: HAZ, CTRL, IN_LEN and InBuf stand. -/
def Obligations.EncodeWritesContainer : Prop :=
  ∀ s : State, (s.input Config.unit).len.toNat ≤ Config.unit.inCap →
    (s.input Config.unit).data.length = (s.input Config.unit).len.toNat →
    let p := (s.input Config.unit).data
    let n : Word := BitVec.ofNat 32 p.length
    let d0 := Config.unit.digestByte p 0
    let d1 := Config.unit.digestByte p 1
    let container := [0x8F, 0x00, n.extractLsb' 24 8, n.extractLsb' 16 8, n.extractLsb' 8 8, n.extractLsb' 0 8, d0, d1] ++ p
    ∃ t, exec .encode s = .next t ∧
      t = (s.completedPlain (d0 ++ d1)).succeededWith (BitVec.ofNat 32 (p.length + 8)) t.outBuf ∧
      (∀ j, t.outByte j = container[j]?) ∧ t.outLen.toNat = p.length + 8

/-- CHECKSUM (42_checksum_unit.md R76): CKSUM gets the digest's first two bytes, OUT_LEN and the other result registers 0, and OutBuf is
not written. -/
def Obligations.ChecksumWritesCksum : Prop :=
  ∀ s : State, (s.input Config.unit).len.toNat ≤ Config.unit.inCap →
    let p := (s.input Config.unit).data
    exec .checksum s =
      .next ((s.completedPlain (Config.unit.digestByte p 0 ++ Config.unit.digestByte p 1)).succeededWith 0 s.outBuf)

/-- DECODE of a valid container (41_header_decoder.md R72, R71): code 0, the payload in OutBuf, the header in the DEC registers, the
payload's checksum in CKSUM. -/
def Obligations.DecodeExtractsPayload : Prop :=
  ∀ (s : State) (h : Header) (payload : ByteSeq), (s.input Config.unit).len.toNat ≤ Config.unit.inCap →
    (s.input Config.unit).data = h.bytes ++ payload → h.ValidFor Config.unit payload →
    ∃ t, exec .decode s = .next t ∧
      t = (s.decodedWith h (h.ck0 ++ h.ck1)).succeededWith (BitVec.ofNat 32 payload.length) t.outBuf ∧
      (∀ j, t.outByte j = payload[j]?) ∧ t.outLen.toNat = payload.length

/-- IN_LEN above `IN_CAP` (60_exceptions.md R80, R81): each command fails with code 8 before it runs. -/
def Obligations.OversizedInLenFailsEveryCommand : Prop :=
  ∀ (i : Instr) (s : State), Config.unit.inCap < (s.input Config.unit).len.toNat →
    exec i s =
      .next ((s.completedPlain 0).failedWith .inLen false (BitVec.ofNat 32 Config.unit.inCap) (s.input Config.unit).len)

/-- DECODE of fewer than 8 bytes (41_header_decoder.md R63, R72): code 6, expected 8, actual the length; no header, no checksum. -/
def Obligations.DecodeShortContainerFails : Prop :=
  ∀ s : State, (s.input Config.unit).len.toNat ≤ Config.unit.inCap → (s.input Config.unit).data.length < 8 →
    exec .decode s =
      .next ((s.completedPlain 0).failedWith .short false 8 (BitVec.ofNat 32 (s.input Config.unit).data.length))

/-- DECODE of a container with a wrong signature (41_header_decoder.md R64, R72): code 5 if `SIG_CHECK`; if not, decoding goes on, with
the outcome that the same bytes with signature `0x8F` have. The DEC registers hold the header found either way. -/
def Obligations.DecodeWrongSignature : Prop :=
  ∀ (s u : State) (h : Header) (cand : ByteSeq), (s.input Config.unit).len.toNat ≤ Config.unit.inCap →
    (s.input Config.unit).data = h.bytes ++ cand → h.sig ≠ 0x8F →
    u.input Config.unit = ⟨(s.input Config.unit).len, Header.bytes { h with sig := 0x8F } ++ cand⟩ →
    ∃ t v, exec .decode s = .next t ∧ exec .decode u = .next v ∧ t.decSig = h.sig ∧ t.decVers = h.vers ∧
      if Config.unit.sigCheck then t = (s.decodedWith h 0).failedWith .signature false 0x8F (h.sig.setWidth 32)
      else State.SameResults { t with decSig := 0x8F } v

/-- DECODE of a container with a compression id that is not 0 (41_header_decoder.md R67): code 2, FIELD 0, whatever the
noise-cancellation id, the length and the checksum are. -/
def Obligations.DecodeUnsupportedCompression : Prop :=
  ∀ (s : State) (h : Header) (cand : ByteSeq), (s.input Config.unit).len.toNat ≤ Config.unit.inCap →
    (s.input Config.unit).data = h.bytes ++ cand → (Config.unit.sigCheck = true → h.sig = 0x8F) →
    h.vers.extractLsb' 2 2 ≠ 0 →
    exec .decode s = .next ((s.decodedWith h 0).failedWith .unsupportedAlgo false 0 ((h.vers.extractLsb' 2 2).setWidth 32))

/-- DECODE of a container with compression id 0 and a noise-cancellation id that is not 0 (41_header_decoder.md R67): code 2, FIELD 1. -/
def Obligations.DecodeUnsupportedNoiseCancellation : Prop :=
  ∀ (s : State) (h : Header) (cand : ByteSeq), (s.input Config.unit).len.toNat ≤ Config.unit.inCap →
    (s.input Config.unit).data = h.bytes ++ cand → (Config.unit.sigCheck = true → h.sig = 0x8F) →
    h.vers.extractLsb' 2 2 = 0 → h.vers.extractLsb' 0 2 ≠ 0 →
    exec .decode s = .next ((s.decodedWith h 0).failedWith .unsupportedAlgo true 0 ((h.vers.extractLsb' 0 2).setWidth 32))

/-- DECODE of a container whose declared length is not its trailing count (41_header_decoder.md R69): code 3, expected the declared
length, actual the count. -/
def Obligations.DecodeLengthMismatchFails : Prop :=
  ∀ (s : State) (h : Header) (cand : ByteSeq), (s.input Config.unit).len.toNat ≤ Config.unit.inCap →
    (s.input Config.unit).data = h.bytes ++ cand → (Config.unit.sigCheck = true → h.sig = 0x8F) →
    h.vers.extractLsb' 0 4 = 0 → h.declared ≠ cand.length →
    exec .decode s =
      .next ((s.decodedWith h 0).failedWith .lengthMismatch false (BitVec.ofNat 32 h.declared) (BitVec.ofNat 32 cand.length))

/-- DECODE of a container whose stored checksum is not the candidate's (41_header_decoder.md R70): code 4, expected the stored one,
actual the recomputed one, which CKSUM holds too. -/
def Obligations.DecodeChecksumMismatchFails : Prop :=
  ∀ (s : State) (h : Header) (cand : ByteSeq), (s.input Config.unit).len.toNat ≤ Config.unit.inCap →
    (s.input Config.unit).data = h.bytes ++ cand → (Config.unit.sigCheck = true → h.sig = 0x8F) →
    h.vers.extractLsb' 0 4 = 0 → h.declared = cand.length →
    let computed : Half := Config.unit.digestByte cand 0 ++ Config.unit.digestByte cand 1
    let stored : Half := h.ck0 ++ h.ck1
    computed ≠ stored →
    exec .decode s =
      .next ((s.decodedWith h computed).failedWith .checksumMismatch false (stored.setWidth 32) (computed.setWidth 32))

/-- An illegal command word (30_encoding.md R55, 60_exceptions.md R80, R81): code 7, actual the word, whatever IN_LEN and the input
are; every other result register 0. -/
def Obligations.IllegalWordCompletesWithCode7 : Prop :=
  ∀ (s u : State) (p : Pending), nextEvent s = (.complete, u) → s.pending = some p →
    p.word ≠ 0x1 → p.word ≠ 0x2 → p.word ≠ 0x3 →
    step s = .next ((u.completedPlain 0).failedWith .illegalCmd false 0 p.word)

/-- Which check decides (60_exceptions.md R80): the command word, then IN_LEN, then the command's own. -/
def Obligations.CompletionChecksInOrder : Prop :=
  ∀ (s u : State) (p : Pending), nextEvent s = (.complete, u) → s.pending = some p →
    ∃ t, step s = .next t ∧
      (if p.word ≠ 0x1 ∧ p.word ≠ 0x2 ∧ p.word ≠ 0x3 then t.code = .illegalCmd ∧ t.errExp = 0 ∧ t.errAct = p.word
      else if Config.unit.inCap < p.len.toNat then
        t.code = .inLen ∧ t.errExp = BitVec.ofNat 32 Config.unit.inCap ∧ t.errAct = p.len
      else if p.word = 0x1 then exec .encode u = .next t
      else if p.word = 0x2 then exec .decode u = .next t
      else exec .checksum u = .next t)

/-- A command's results depend only on its input and the configuration (10_state.md R28): two states with the same input, whatever else
they hold, get the same results. -/
def Obligations.ResultsDependOnlyOnInput : Prop :=
  ∀ (i : Instr) (s u : State), s.input Config.unit = u.input Config.unit →
    ∃ t v, exec i s = .next t ∧ exec i u = .next v ∧ State.SameResults t v

/-- ENCODE then DECODE of its output gives the payload back (source property S1 on the machine; 40_header_encoder.md R61,
41_header_decoder.md R71). -/
def Obligations.EncodeThenDecodeReturnsPayload : Prop :=
  ∀ s t u : State, (s.input Config.unit).len.toNat ≤ Config.unit.inCap →
    (s.input Config.unit).data.length = (s.input Config.unit).len.toNat → exec .encode s = .next t →
    (u.input Config.unit).len = t.outLen → t.outLen.toNat ≤ Config.unit.inCap →
    (∀ j, (u.input Config.unit).data[j]? = t.outByte j) →
    ∃ v, exec .decode u = .next v ∧ v.code = .ok ∧ v.outLen = (s.input Config.unit).len ∧
      ∀ j, v.outByte j = (s.input Config.unit).data[j]?

/-! ## The container functions, for every configuration -/

/-- `pack_versions` puts each field in its bits and loses none (40_header_encoder.md R58). -/
def Obligations.PackVersionsPlacesFields : Prop :=
  (∀ v : Versions, (packVersions v).extractLsb' 4 4 = v.fver ∧ (packVersions v).extractLsb' 2 2 = v.comp ∧
    (packVersions v).extractLsb' 0 2 = v.nc) ∧
  (∀ v w : Versions, packVersions v = packVersions w → v = w) ∧
  packVersions ⟨0, 0, 0⟩ = 0x00 ∧ packVersions ⟨0xF, 1, 2⟩ = 0xF6

/-- `unpack_versions` (41_header_decoder.md R65): bits 7:4, 3:2 and 1:0, undoing `pack_versions` and undone by it. -/
def Obligations.UnpackVersionsInvertsPack : Prop :=
  (∀ b : Byte, unpackVersions b = ⟨b.extractLsb' 4 4, b.extractLsb' 2 2, b.extractLsb' 0 2⟩) ∧
  (∀ v : Versions, unpackVersions (packVersions v) = v) ∧ (∀ b : Byte, packVersions (unpackVersions b) = b) ∧
  unpackVersions 0x04 = ⟨0, 1, 0⟩ ∧ unpackVersions 0x01 = ⟨0, 0, 1⟩ ∧ unpackVersions 0xF6 = ⟨15, 1, 2⟩

/-- The length field: four bytes, most significant first, read back as the same number (40_header_encoder.md R59,
41_header_decoder.md R68). -/
def Obligations.LengthFieldRoundTrip : Prop :=
  (∀ n : Word, ∃ b0 b1 b2 b3, be32 n = [b0, b1, b2, b3] ∧ be32Read b0 b1 b2 b3 = n ∧
    n.toNat = b0.toNat * 2 ^ 24 + b1.toNat * 2 ^ 16 + b2.toNat * 2 ^ 8 + b3.toNat) ∧
  (∀ b0 b1 b2 b3 : Byte, be32 (be32Read b0 b1 b2 b3) = [b0, b1, b2, b3])

/-- `cs16` is the digest's first two bytes, the first most significant, and comparing 16-bit images is comparing byte pairs
(42_checksum_unit.md R74, R75). -/
def Obligations.ChecksumImageIsBigEndian : Prop :=
  (∀ (c : Config) (p : ByteSeq), (c.digest p).length = c.digestLen ∧
    (c.digest p)[0]? = some (cs2 c p).1 ∧ (c.digest p)[1]? = some (cs2 c p).2 ∧
    (cs16 c p).toNat = (cs2 c p).1.toNat * 256 + (cs2 c p).2.toNat) ∧
  (∀ x y : Byte × Byte, pair16 x = pair16 y ↔ x = y) ∧ (∀ h : Half, ∃ x, pair16 x = h)

/-- The header `encode_header` writes (40_header_encoder.md R60), and that it depends on the payload only through its length and
checksum. -/
def Obligations.EncodedHeaderShape : Prop :=
  (∀ (c : Config) (p : ByteSeq), p.length ≤ 2 ^ 32 - 1 →
    ∃ h : Header, encodeHeader c p = h.bytes ∧ h.sig = 0x8F ∧ h.vers = 0x00 ∧ h.declared = p.length ∧
      (h.ck0, h.ck1) = cs2 c p) ∧
  (∀ (c : Config) (p q : ByteSeq), p.length = q.length → cs2 c p = cs2 c q → encodeHeader c p = encodeHeader c q)

/-- `encode` (40_header_encoder.md R61): the header followed by the unmodified payload, or EncodingError exactly when the length does
not fit, with the values that the table of 60_exceptions.md R81 gives code 1. -/
def Obligations.EncodeSucceedsExactlyWhenLengthFits : Prop :=
  ∀ (c : Config) (p : ByteSeq),
    (p.length ≤ 2 ^ 32 - 1 →
      ∃ r, encodeContainer c p = .ok r ∧ r.take 8 = encodeHeader c p ∧ r.drop 8 = p ∧ r.length = p.length + 8) ∧
    (2 ^ 32 - 1 < p.length → ∃ e, encodeContainer c p = .error e ∧ e = .encodingError p.length ∧ e.code = .encoding ∧
      e.field = false ∧ e.expValue = 0xFFFFFFFF ∧ e.actValue = 0xFFFFFFFF)

/-- `decode(encode(P)) = Ok(P)` for every payload and every configuration, whatever `SIG_CHECK` is (40_header_encoder.md R61). -/
def Obligations.ContainerRoundTrip : Prop :=
  ∀ (c : Config) (p : ByteSeq), p.length ≤ 2 ^ 32 - 1 →
    ∃ r, encodeContainer c p = .ok r ∧ decodeContainer c r = .ok p

/-- `decode(C) = Ok(P)` exactly when `C` is a valid container of `P` (41_header_decoder.md R71, 30_encoding.md R52). -/
def Obligations.DecodeSucceedsExactlyOnValid : Prop :=
  ∀ (c : Config) (bytes payload : ByteSeq),
    decodeContainer c bytes = .ok payload ↔ ∃ h : Header, bytes = h.bytes ++ payload ∧ h.ValidFor c payload

/-- Re-encoding a decoded payload gives the container back, up to the version nibble and, without the signature check, the signature
byte (41_header_decoder.md R71). -/
def Obligations.ReencodingReproducesContainer : Prop :=
  ∀ (c : Config) (h : Header) (payload : ByteSeq), decodeContainer c (h.bytes ++ payload) = .ok payload →
    ∃ g : Header, encodeContainer c payload = .ok (g.bytes ++ payload) ∧
      (c.sigCheck = true → g.sig = h.sig) ∧ g.vers.extractLsb' 0 4 = h.vers.extractLsb' 0 4 ∧
      g.len0 = h.len0 ∧ g.len1 = h.len1 ∧ g.len2 = h.len2 ∧ g.len3 = h.len3 ∧ g.ck0 = h.ck0 ∧ g.ck1 = h.ck1

/-- The file-format version nibble is not validated (41_header_decoder.md R66): two containers that differ only there decode alike. -/
def Obligations.VersionNibbleIsIgnored : Prop :=
  ∀ (c : Config) (h : Header) (v : Byte) (cand : ByteSeq), v.extractLsb' 0 4 = h.vers.extractLsb' 0 4 →
    decodeContainer c (Header.bytes { h with vers := v } ++ cand) = decodeContainer c (h.bytes ++ cand)

/-- The signature check (41_header_decoder.md R64): with `SIG_CHECK` any byte but `0x8F` raises SignatureError; without it decoding
goes on as if the byte were `0x8F`. -/
def Obligations.SignatureCheckGatesDecode : Prop :=
  ∀ (c : Config) (h : Header) (cand : ByteSeq), h.sig ≠ 0x8F →
    decodeContainer c (h.bytes ++ cand) =
      if c.sigCheck then .error (.signatureError h.sig)
      else decodeContainer c (Header.bytes { h with sig := 0x8F } ++ cand)

/-- Changing only the length field of a container that decodes is always detected (41_header_decoder.md R69, 90_conflicts.md C7). -/
def Obligations.LengthFieldTamperDetected : Prop :=
  ∀ (c : Config) (h : Header) (payload : ByteSeq) (b0 b1 b2 b3 : Byte), decodeContainer c (h.bytes ++ payload) = .ok payload →
    (b0, b1, b2, b3) ≠ (h.len0, h.len1, h.len2, h.len3) →
    ∃ declared : Word, declared ≠ h.length ∧
      decodeContainer c (Header.bytes { h with len0 := b0, len1 := b1, len2 := b2, len3 := b3 } ++ payload) =
        .error (.lengthMismatch declared payload.length)

/-- Changing the payload of a container that decodes, at the same length, is detected exactly when the two checksums differ
(41_header_decoder.md R70, 90_conflicts.md C4). -/
def Obligations.PayloadTamperDetectedByChecksum : Prop :=
  ∀ (c : Config) (h : Header) (p q : ByteSeq), decodeContainer c (h.bytes ++ p) = .ok p → q.length = p.length →
    decodeContainer c (h.bytes ++ q) =
      if cs2 c q = cs2 c p then .ok q else .error (.checksumMismatch (cs16 c p) (cs16 c q))

/-! ## The host port -/

/-- An access that gets ERROR changes no state (20_memory.md R33): the answer is ERROR with read data 0, and only the model's own
record of answers moves on. -/
def Obligations.ErrorAccessChangesNothing : Prop :=
  ∀ (s u : State) (a : Access), nextEvent s = (.access a, u) → accessError Config.unit a = true →
    step s = .next { s with
      agenda := s.agenda.tail
      responses := ⟨.error, 0⟩ :: s.responses
      draws := s.draws + 1 }

/-- Which accesses proceed (20_memory.md R31, R32): aligned words in REG; bytes and aligned words wholly in IN_BUF; reads of bytes and
aligned words wholly in OUT_BUF. No access of another size does (log 18). -/
def Obligations.AccessProceedsExactlyInMap : Prop :=
  ∀ (c : Config) (a : Access),
    let addr := a.addr.toNat
    let width := if a.size = .word then 4 else 1
    accessError c a = false ↔
      (a.size ≠ .other ∧ addr % width = 0 ∧
        ((a.size = .word ∧ addr < 0x1000) ∨
          (0x40000000 ≤ addr ∧ addr + width ≤ 0x40000000 + c.inCap) ∨
          (a.kind = .read ∧ 0x80000000 ≤ addr ∧ addr + width ≤ 0x80000000 + (c.inCap + 8))))

/-- STATUS as read (10_state.md R13, 60_exceptions.md R78): each bit's place and the code numbers. -/
def Obligations.StatusBitsLayout : Prop :=
  ∀ s : State, s.statusWord.toNat =
    (if s.pending = none then 0 else 1) + (if s.done then 2 else 0) + (if s.code = .ok then 0 else 4) + (if s.haz then 8 else 0) +
      16 * (match s.code with
        | .ok => 0 | .encoding => 1 | .unsupportedAlgo => 2 | .lengthMismatch => 3 | .checksumMismatch => 4
        | .signature => 5 | .short => 6 | .illegalCmd => 7 | .inLen => 8) + (if s.field then 256 else 0)

/-- DEC_HDR as read (10_state.md R18). -/
def Obligations.DecHdrBitsLayout : Prop :=
  ∀ s : State, s.decHdrWord.extractLsb' 0 8 = s.decSig ∧ s.decHdrWord.extractLsb' 8 8 = s.decVers ∧
    s.decHdrWord.extractLsb' 16 4 = s.decVers.extractLsb' 4 4 ∧ s.decHdrWord.extractLsb' 20 2 = s.decVers.extractLsb' 2 2 ∧
    s.decHdrWord.extractLsb' 22 2 = s.decVers.extractLsb' 0 2 ∧ s.decHdrWord.extractLsb' 24 8 = 0

/-- Register reads while idle (10_state.md R11, R12 to R23, 20_memory.md R34): response OKAY, the register at the offset, 0 at CMD and
at every reserved offset; nothing else changes. -/
def Obligations.IdleRegisterReads : Prop :=
  ∀ (s u : State) (a : Access), nextEvent s = (.access a, u) → s.pending = none → a.kind = .read → a.size = .word →
    a.addr.toNat < 0x1000 → a.addr.toNat % 4 = 0 →
    step s = .next (u.respond ⟨.okay,
      if a.addr = 0x004 then s.statusWord
      else if a.addr = 0x008 then (if s.ie then 1 else 0)
      else if a.addr = 0x00C then s.inLen
      else if a.addr = 0x010 then s.outLen
      else if a.addr = 0x014 then s.cksum.setWidth 32
      else if a.addr = 0x018 then s.decHdrWord
      else if a.addr = 0x01C then s.decLen
      else if a.addr = 0x020 then s.decCksum.setWidth 32
      else if a.addr = 0x024 then s.errExp
      else if a.addr = 0x028 then s.errAct
      else 0⟩)

/-- While BUSY, a read of a result register or of OUT_BUF returns a draw, response OKAY (70_reset_and_hazards.md R97). The draw is the
free value of this access's number, and the next access has another number. -/
def Obligations.BusyResultReadsAreDraws : Prop :=
  ∀ (s u : State) (a : Access), nextEvent s = (.access a, u) → s.pending ≠ none → a.kind = .read →
    accessError Config.unit a = false →
    (a.addr ∈ [0x010, 0x014, 0x018, 0x01C, 0x020, 0x024, 0x028] ∨ 0x80000000 ≤ a.addr.toNat) →
    ∃ t, step s = .next t ∧ t.draws = s.draws + 1 ∧
      t = u.respond ⟨.okay,
        if a.size = .word then Config.unit.freeWord s.draws else ((Config.unit.freeWord s.draws).setWidth 8).setWidth 32⟩

/-- Accesses that are safe while BUSY behave as when idle (70_reset_and_hazards.md R98): reads of STATUS, CTRL, IN_LEN, CMD and
reserved offsets; writes to STATUS, CTRL and reserved offsets. Nothing is assumed about BUSY. -/
def Obligations.SafeAccessesIgnoreBusy : Prop :=
  ∀ (s u : State) (a : Access), nextEvent s = (.access a, u) → a.size = .word → a.addr.toNat < 0x1000 → a.addr.toNat % 4 = 0 →
    (a.kind = .read → (a.addr.toNat < 0x010 ∨ 0x02C ≤ a.addr.toNat) →
      step s = .next (u.respond ⟨.okay,
        if a.addr = 0x004 then s.statusWord else if a.addr = 0x008 then (if s.ie then 1 else 0)
        else if a.addr = 0x00C then s.inLen else 0⟩)) ∧
    (a.kind = .write → a.addr = 0x004 →
      step s = .next (State.respond ⟨.okay, 0⟩
        { u with done := s.done && !a.wdata.getLsbD 1, haz := s.haz && !a.wdata.getLsbD 3 })) ∧
    (a.kind = .write → a.addr = 0x008 → step s = .next (State.respond ⟨.okay, 0⟩ { u with ie := a.wdata.getLsbD 0 })) ∧
    (a.kind = .write → 0x010 ≤ a.addr.toNat → step s = .next (u.respond ⟨.okay, 0⟩))

/-- The accept step (70_reset_and_hazards.md R93): a write to CMD while idle is accepted whatever the word is, samples IN_LEN and the
input bytes, and clears DONE, CODE and FIELD; nothing else changes. -/
def Obligations.CmdWriteIsAccepted : Prop :=
  ∀ (s u : State) (w : Word), nextEvent s = (.access ⟨.write, 0x000, .word, w⟩, u) → s.pending = none →
    step s = .next (State.respond ⟨.okay, 0⟩
      { u with
        pending := some ⟨w, s.inLen, (List.range (min s.inLen.toNat Config.unit.inCap)).map (s.inByte Config.unit)⟩
        done := false
        code := .ok
        field := false })

/-- The write hazard (70_reset_and_hazards.md R96): while BUSY a write to CMD, to IN_LEN or anywhere in IN_BUF that is no bus error
changes nothing but HAZ, which becomes 1; response OKAY. -/
def Obligations.BusyWritesAreDropped : Prop :=
  ∀ (s u : State) (a : Access), nextEvent s = (.access a, u) → s.pending ≠ none → a.kind = .write →
    accessError Config.unit a = false →
    (a.addr = 0x000 ∨ a.addr = 0x00C ∨ 0x40000000 ≤ a.addr.toNat) →
    step s = .next (State.respond ⟨.okay, 0⟩ { u with haz := true })

/-- A write to IN_LEN while idle stores all 32 bits (10_state.md R15). -/
def Obligations.IdleInLenWriteStores : Prop :=
  ∀ (s u : State) (v : Word), nextEvent s = (.access ⟨.write, 0x00C, .word, v⟩, u) → s.pending = none →
    step s = .next (State.respond ⟨.okay, 0⟩ { u with inLen := v })

/-- A write in IN_BUF while idle (20_memory.md R36): its bytes stored little-endian from the address, every other byte of InBuf as
before, and nothing else changed. -/
def Obligations.InBufWriteStoresLanes : Prop :=
  ∀ (s u : State) (a : Access), nextEvent s = (.access a, u) → s.pending = none → a.kind = .write →
    accessError Config.unit a = false → 0x40000000 ≤ a.addr.toNat →
    ∃ t, step s = .next t ∧ t = State.respond ⟨.okay, 0⟩ { u with inBuf := t.inBuf } ∧
      ∀ i, t.inByte Config.unit i =
        if 0x40000000 + i = a.addr.toNat then a.wdata.extractLsb' 0 8
        else if a.size = .word ∧ 0x40000000 + i = a.addr.toNat + 1 then a.wdata.extractLsb' 8 8
        else if a.size = .word ∧ 0x40000000 + i = a.addr.toNat + 2 then a.wdata.extractLsb' 16 8
        else if a.size = .word ∧ 0x40000000 + i = a.addr.toNat + 3 then a.wdata.extractLsb' 24 8
        else s.inByte Config.unit i

/-- A read in IN_BUF, BUSY or not (20_memory.md R35, 70_reset_and_hazards.md R98): the bytes in little-endian lanes, the lanes of a
byte read above bit 7 zero, response OKAY. -/
def Obligations.InBufReadReturnsLanes : Prop :=
  ∀ (s u : State) (a : Access), nextEvent s = (.access a, u) → a.kind = .read → accessError Config.unit a = false →
    0x40000000 ≤ a.addr.toNat → a.addr.toNat < 0x80000000 →
    ∃ rdata : Word, step s = .next (u.respond ⟨.okay, rdata⟩) ∧
      ∀ k, k < 4 → rdata.extractLsb' (8 * k) 8 =
        if k = 0 ∨ a.size = .word then s.inByte Config.unit (a.addr.toNat - 0x40000000 + k) else 0

/-- A read in OUT_BUF while idle (20_memory.md R37): each lane below OUT_LEN holds its byte of the result, in the lane order of IN_BUF,
response OKAY. -/
def Obligations.OutBufReadReturnsResult : Prop :=
  ∀ (s u : State) (a : Access), nextEvent s = (.access a, u) → s.pending = none → a.kind = .read →
    accessError Config.unit a = false → 0x80000000 ≤ a.addr.toNat →
    ∃ rdata : Word, step s = .next (u.respond ⟨.okay, rdata⟩) ∧
      (∀ k b, k < 4 → (k = 0 ∨ a.size = .word) → a.addr.toNat - 0x80000000 + k < s.outLen.toNat →
        Memory.read s.outBuf (a.addr.toNat - 0x80000000 + k) = some b → rdata.extractLsb' (8 * k) 8 = b) ∧
      (a.size = .byte → rdata.toNat < 256)

/-- Reads have no side effects, and a repeated read returns the same value unless it returns a draw (20_memory.md R40). -/
def Obligations.RepeatedReadsAgree : Prop :=
  ∀ (s u : State) (a : Access) (rest : List Event), s.agenda = .access a :: .access a :: rest → a.kind = .read →
    (s.pending = none ∨ a.addr.toNat < 0x010 ∨ (0x02C ≤ a.addr.toNat ∧ a.addr.toNat < 0x80000000)) →
    (∀ k, k < 4 → (k = 0 ∨ a.size = .word) → 0x80000000 ≤ a.addr.toNat → accessError Config.unit a = false →
      (s.outByte (a.addr.toNat - 0x80000000 + k)).isSome = true) →
    step s = .next u →
    ∃ r, u = { s with agenda := .access a :: rest, responses := r :: s.responses, draws := s.draws + 1 } ∧
      step u = .next { s with agenda := rest, responses := r :: r :: s.responses, draws := s.draws + 2 }

/-! ## Reset, interrupt and whole-machine rules -/

/-- The reset step (70_reset_and_hazards.md R91), at any time: every register reads 0, nothing is pending, IRQ is 0, every InBuf byte is the new draw
and no OutBuf byte is defined. What the host still has to do and has been answered is not the unit's and stays. -/
def Obligations.ResetStepLeavesResetValues : Prop :=
  ∀ s u : State, nextEvent s = (.reset, u) →
    ∃ t, step s = .next t ∧ (∀ r : Reg, t.readReg r = 0) ∧ t.pending = none ∧ t.irq = false ∧
      (∀ i, t.inByte Config.unit i = Config.unit.inBufDraw s.draws i) ∧ (∀ j, t.outByte j = none) ∧
      t.inDraw = s.draws ∧ t.draws = s.draws + 1 ∧ t.agenda = s.agenda.tail ∧ t.responses = s.responses

/-- The machine's state right after reset (10_state.md section 7): every register reads 0, nothing is pending, IRQ is 0. -/
def Obligations.ResetStateReadsZero : Prop :=
  (∀ r : Reg, State.reset.readReg r = 0) ∧ State.reset.pending = none ∧ State.reset.irq = false ∧
    (∀ j, State.reset.outByte j = none)

/-- IRQ is `CTRL.IE & STATUS.DONE` at every instant, read off the two registers, and 0 after reset (10_state.md R27). -/
def Obligations.IrqIsEnableAndDone : Prop :=
  (∀ s : State, s.irq = ((s.readReg .ctrl).getLsbD 0 && (s.readReg .status).getLsbD 1)) ∧ State.reset.irq = false

/-- When IRQ changes (60_exceptions.md R85). It rises only at a completion with CTRL.IE set, or when the host sets CTRL.IE while DONE
is 1. It falls only by a write of 1 to STATUS.DONE, an accepted command, a CTRL write that clears IE, or reset. -/
def Obligations.IrqChangesOnlyAsRuled : Prop :=
  ∀ s t : State, step s = .next t →
    (s.irq = false → t.irq = true →
      ((nextEvent s).1 = .complete ∧ s.pending ≠ none ∧ s.ie = true) ∨
        (∃ w, (nextEvent s).1 = .access ⟨.write, 0x008, .word, w⟩ ∧ w.getLsbD 0 = true ∧ s.done = true)) ∧
    (s.irq = true → t.irq = false →
      (nextEvent s).1 = .reset ∨
        ∃ a : Access, (nextEvent s).1 = .access a ∧ a.kind = .write ∧ a.size = .word ∧
          ((a.addr = 0x004 ∧ a.wdata.getLsbD 1 = true) ∨ (a.addr = 0x000 ∧ s.pending = none) ∨
            (a.addr = 0x008 ∧ a.wdata.getLsbD 0 = false)))

/-- HAZ is set only by a dropped write while BUSY, and cleared only by a write of 1 to it or by reset (70_reset_and_hazards.md R96). -/
def Obligations.HazIsSticky : Prop :=
  ∀ s t : State, step s = .next t →
    (s.haz = true → t.haz = false →
      (nextEvent s).1 = .reset ∨ ∃ w : Word, (nextEvent s).1 = .access ⟨.write, 0x004, .word, w⟩ ∧ w.getLsbD 3 = true) ∧
    (s.haz = false → t.haz = true → s.pending ≠ none ∧ ∃ a : Access, (nextEvent s).1 = .access a ∧ a.kind = .write)

/-- Results change only at a completion or a reset (20_memory.md R42, 70_reset_and_hazards.md R99): no bus access changes a result
register or OutBuf, and none changes CODE or FIELD but an accept. -/
def Obligations.AccessesKeepResults : Prop :=
  ∀ (s u t : State) (a : Access), nextEvent s = (.access a, u) → step s = .next t →
    t.outLen = s.outLen ∧ t.cksum = s.cksum ∧ t.decSig = s.decSig ∧ t.decVers = s.decVers ∧ t.decLen = s.decLen ∧
      t.decCksum = s.decCksum ∧ t.errExp = s.errExp ∧ t.errAct = s.errAct ∧ t.outBuf = s.outBuf ∧
      ((t.code = s.code ∧ t.field = s.field) ∨
        (s.pending = none ∧ a.kind = .write ∧ a.size = .word ∧ a.addr = 0x000 ∧ t.pending ≠ none))

/-- No access changes the input of an accepted command (20_memory.md R44): while BUSY, Pending, IN_LEN and InBuf stand. -/
def Obligations.PendingInputIsStable : Prop :=
  ∀ (s u t : State) (a : Access) (p : Pending), nextEvent s = (.access a, u) → s.pending = some p → step s = .next t →
    t.pending = some p ∧ t.inLen = s.inLen ∧ t.inBuf = s.inBuf ∧ (∀ i, t.inByte Config.unit i = s.inByte Config.unit i)

/-- A pending command always completes (70_reset_and_hazards.md R95): with no reset ahead, after no more steps than the agenda has
events the same command is still pending and it is the unit's turn, and that step completes it. -/
def Obligations.PendingCommandCompletes : Prop :=
  ∀ (s : State) (p : Pending), s.pending = some p → s.noReset →
    ∃ n t u, n ≤ s.agenda.length ∧ core.run n s = .next t ∧ t.pending = some p ∧ (nextEvent t).1 = .complete ∧
      step t = .next u ∧ u.pending = none ∧ u.done = true

/-- Every step keeps the invariant `State.Inv`. -/
def Obligations.StepKeepsInvariant : Prop :=
  ∀ s t : State, s.Inv Config.unit → step s = .next t → t.Inv Config.unit

/-- The invariant holds at reset. -/
def Obligations.ResetMeetsInvariant : Prop := State.reset.Inv Config.unit

/-- What STATUS can show in a state that meets the invariant (60_exceptions.md R78, R79, R81): no code 1 and none from 9 to 15, FIELD 1
only with code 2, and CODE, FIELD and DONE 0 while BUSY. -/
def Obligations.StatusShowsOnlyReachableCodes : Prop :=
  ∀ s : State, s.Inv Config.unit →
    (s.statusWord.extractLsb' 4 4).toNat ≤ 8 ∧ s.statusWord.extractLsb' 4 4 ≠ 1 ∧
      (s.statusWord.getLsbD 8 = true → s.statusWord.extractLsb' 4 4 = 2) ∧
      (s.statusWord.getLsbD 0 = true → s.statusWord.toNat = 1 + (if s.haz then 8 else 0))

/-! ## Systems and scripts -/

/-- Units are independent (60_exceptions.md R89): after steps of a system in any order, each unit is where its own steps alone take it. -/
def Obligations.UnitsAreIndependent : Prop :=
  ∀ (order : List Nat) (sys : System) (k : Nat),
    (System.run order sys)[k]? = sys[k]?.map (fun u => (SystemUnit.step)^[order.count k] u)

/-- The pseudo-statement PUT (30_encoding.md R57): run by the host while the unit is idle, it leaves its bytes in InBuf from its index
on and every other byte as before. -/
def Obligations.PutStatementFillsInput : Prop :=
  ∀ (c : Config) (i : Nat) (bytes : ByteSeq) (vars : List (Nat × Word)) (s : State), s.pending = none →
    i + bytes.length ≤ c.inCap →
    let h := scriptRun c (PseudoStmt.put i bytes).expand (List.replicate bytes.length true) ⟨0, vars, s⟩
    h.pc = bytes.length ∧ h.unit.pending = none ∧
      ∀ j, h.unit.inByte c j = if i ≤ j ∧ j < i + bytes.length then bytes[j - i]?.getD 0 else s.inByte c j
end

