-- ==== Sys2Proof/Laws/Bits.lean ====
section
/-! SUPPORT. The shift-and-or forms of the spec as concatenations of their bytes and fields. -/

namespace Sys2Proof.Machine

/-- A byte has no bit at position 8 or above. -/
theorem byte_high (b : Byte) (i : Nat) (h : 8 ≤ i) : b.getLsbD i = false := BitVec.getLsbD_of_ge b i h

/-- A byte pair's image is the first byte followed by the second. -/
theorem pair16_eq_append (p : Byte × Byte) : pair16 p = p.1 ++ p.2 := by
  apply BitVec.eq_of_getLsbD_eq
  intro i hi
  simp only [pair16, BitVec.getLsbD_or, BitVec.getLsbD_shiftLeft, BitVec.getLsbD_setWidth, BitVec.getLsbD_append]
  by_cases h : i < 8
  · simp [h, hi]
  · simp [h, hi, byte_high p.2 i (by omega)]; omega

/-- The big-endian length reader concatenates its bytes. -/
theorem be32Read_eq_append (b0 b1 b2 b3 : Byte) : be32Read b0 b1 b2 b3 = b0 ++ b1 ++ b2 ++ b3 := by
  apply BitVec.eq_of_getLsbD_eq
  intro i hi
  simp only [be32Read, BitVec.getLsbD_or, BitVec.getLsbD_shiftLeft, BitVec.getLsbD_setWidth, BitVec.getLsbD_append]
  rcases Nat.lt_or_ge i 8 with h | h
  · simp only [h, hi, show i < 24 by omega, show i < 16 by omega]; simp
  have e3 := byte_high b3 i h
  rcases Nat.lt_or_ge i 16 with h2 | h2
  · simp only [hi, e3, show ¬ i < 8 by omega, show i < 24 by omega, h2, show i - 8 < 8 by omega, show i - 8 < 32 by omega]; simp
  have e2 := byte_high b2 (i - 8) (by omega)
  rcases Nat.lt_or_ge i 24 with h1 | h1
  · simp only [hi, e3, e2, show ¬ i < 8 by omega, show ¬ i < 16 by omega, h1, show ¬ i - 8 < 8 by omega,
      show i - 8 - 8 = i - 16 by omega, show i - 16 < 8 by omega, show i - 16 < 32 by omega]; simp
  have e1 := byte_high b1 (i - 16) (by omega)
  simp only [hi, e3, e2, e1, show ¬ i < 8 by omega, show ¬ i < 16 by omega, show ¬ i < 24 by omega,
    show ¬ i - 8 < 8 by omega, show i - 8 - 8 = i - 16 by omega, show ¬ i - 16 < 8 by omega,
    show i - 16 - 8 = i - 24 by omega, show i - 24 < 32 by omega]; simp

/-- A word read concatenates its lanes, the highest address first. -/
theorem readLanes_word (f : Nat → Byte) : readLanes .word f = f 3 ++ f 2 ++ f 1 ++ f 0 := by
  rw [← be32Read_eq_append]
  simp only [readLanes, be32Read]
  generalize (f 0).setWidth 32 = a, (f 1).setWidth 32 <<< 8 = b, (f 2).setWidth 32 <<< 16 = c, (f 3).setWidth 32 <<< 24 = d
  rw [BitVec.or_comm _ d, BitVec.or_comm _ c, BitVec.or_comm a b, BitVec.or_assoc, BitVec.or_assoc]

/-- Appending a byte multiplies by 256 and adds it. -/
theorem append_byte_toNat {n : Nat} (x : BitVec n) (b : Byte) : (x ++ b).toNat = x.toNat * 256 + b.toNat := by
  rw [BitVec.toNat_append, ← Nat.shiftLeft_add_eq_or_of_lt b.isLt, Nat.shiftLeft_eq]

/-- The 32-bit number of four bytes. -/
theorem be32Read_toNat (b0 b1 b2 b3 : Byte) :
    (be32Read b0 b1 b2 b3).toNat = b0.toNat * 2 ^ 24 + b1.toNat * 2 ^ 16 + b2.toNat * 2 ^ 8 + b3.toNat := by
  rw [be32Read_eq_append, append_byte_toNat, append_byte_toNat, append_byte_toNat]
  omega

/-- The 16-bit number of a byte pair. -/
theorem pair16_toNat (p : Byte × Byte) : (pair16 p).toNat = p.1.toNat * 256 + p.2.toNat := by
  rw [pair16_eq_append, append_byte_toNat]

end Sys2Proof.Machine
end

