-- ==== Sys2Proof/Laws/State.lean ====
section
/-! SUPPORT. One lemma per field per named update of the state, and what each update does to the functions of the state. -/

namespace Sys2Proof.Machine

/-! ### accept -/

@[simp] theorem State.accept_done (c : Config) (w : Word) (s : State) : (s.accept c w).done = false := rfl
@[simp] theorem State.accept_haz (c : Config) (w : Word) (s : State) : (s.accept c w).haz = s.haz := rfl
@[simp] theorem State.accept_code (c : Config) (w : Word) (s : State) : (s.accept c w).code = .ok := rfl
@[simp] theorem State.accept_field (c : Config) (w : Word) (s : State) : (s.accept c w).field = false := rfl
@[simp] theorem State.accept_ie (c : Config) (w : Word) (s : State) : (s.accept c w).ie = s.ie := rfl
@[simp] theorem State.accept_inLen (c : Config) (w : Word) (s : State) : (s.accept c w).inLen = s.inLen := rfl
@[simp] theorem State.accept_outLen (c : Config) (w : Word) (s : State) : (s.accept c w).outLen = s.outLen := rfl
@[simp] theorem State.accept_cksum (c : Config) (w : Word) (s : State) : (s.accept c w).cksum = s.cksum := rfl
@[simp] theorem State.accept_decSig (c : Config) (w : Word) (s : State) : (s.accept c w).decSig = s.decSig := rfl
@[simp] theorem State.accept_decVers (c : Config) (w : Word) (s : State) : (s.accept c w).decVers = s.decVers := rfl
@[simp] theorem State.accept_decLen (c : Config) (w : Word) (s : State) : (s.accept c w).decLen = s.decLen := rfl
@[simp] theorem State.accept_decCksum (c : Config) (w : Word) (s : State) : (s.accept c w).decCksum = s.decCksum := rfl
@[simp] theorem State.accept_errExp (c : Config) (w : Word) (s : State) : (s.accept c w).errExp = s.errExp := rfl
@[simp] theorem State.accept_errAct (c : Config) (w : Word) (s : State) : (s.accept c w).errAct = s.errAct := rfl
@[simp] theorem State.accept_inBuf (c : Config) (w : Word) (s : State) : (s.accept c w).inBuf = s.inBuf := rfl
@[simp] theorem State.accept_outBuf (c : Config) (w : Word) (s : State) : (s.accept c w).outBuf = s.outBuf := rfl
@[simp] theorem State.accept_pending (c : Config) (w : Word) (s : State) : (s.accept c w).pending = some ⟨w, (s.sample c).len, (s.sample c).data⟩ := rfl
@[simp] theorem State.accept_inDraw (c : Config) (w : Word) (s : State) : (s.accept c w).inDraw = s.inDraw := rfl
@[simp] theorem State.accept_draws (c : Config) (w : Word) (s : State) : (s.accept c w).draws = s.draws := rfl
@[simp] theorem State.accept_agenda (c : Config) (w : Word) (s : State) : (s.accept c w).agenda = s.agenda := rfl
@[simp] theorem State.accept_responses (c : Config) (w : Word) (s : State) : (s.accept c w).responses = s.responses := rfl

/-! ### dropWrite -/

@[simp] theorem State.dropWrite_done (s : State) : (s.dropWrite).done = s.done := rfl
@[simp] theorem State.dropWrite_haz (s : State) : (s.dropWrite).haz = true := rfl
@[simp] theorem State.dropWrite_code (s : State) : (s.dropWrite).code = s.code := rfl
@[simp] theorem State.dropWrite_field (s : State) : (s.dropWrite).field = s.field := rfl
@[simp] theorem State.dropWrite_ie (s : State) : (s.dropWrite).ie = s.ie := rfl
@[simp] theorem State.dropWrite_inLen (s : State) : (s.dropWrite).inLen = s.inLen := rfl
@[simp] theorem State.dropWrite_outLen (s : State) : (s.dropWrite).outLen = s.outLen := rfl
@[simp] theorem State.dropWrite_cksum (s : State) : (s.dropWrite).cksum = s.cksum := rfl
@[simp] theorem State.dropWrite_decSig (s : State) : (s.dropWrite).decSig = s.decSig := rfl
@[simp] theorem State.dropWrite_decVers (s : State) : (s.dropWrite).decVers = s.decVers := rfl
@[simp] theorem State.dropWrite_decLen (s : State) : (s.dropWrite).decLen = s.decLen := rfl
@[simp] theorem State.dropWrite_decCksum (s : State) : (s.dropWrite).decCksum = s.decCksum := rfl
@[simp] theorem State.dropWrite_errExp (s : State) : (s.dropWrite).errExp = s.errExp := rfl
@[simp] theorem State.dropWrite_errAct (s : State) : (s.dropWrite).errAct = s.errAct := rfl
@[simp] theorem State.dropWrite_inBuf (s : State) : (s.dropWrite).inBuf = s.inBuf := rfl
@[simp] theorem State.dropWrite_outBuf (s : State) : (s.dropWrite).outBuf = s.outBuf := rfl
@[simp] theorem State.dropWrite_pending (s : State) : (s.dropWrite).pending = s.pending := rfl
@[simp] theorem State.dropWrite_inDraw (s : State) : (s.dropWrite).inDraw = s.inDraw := rfl
@[simp] theorem State.dropWrite_draws (s : State) : (s.dropWrite).draws = s.draws := rfl
@[simp] theorem State.dropWrite_agenda (s : State) : (s.dropWrite).agenda = s.agenda := rfl
@[simp] theorem State.dropWrite_responses (s : State) : (s.dropWrite).responses = s.responses := rfl

/-! ### complete -/

@[simp] theorem State.complete_done (r : Results) (s : State) : (s.complete r).done = true := rfl
@[simp] theorem State.complete_haz (r : Results) (s : State) : (s.complete r).haz = s.haz := rfl
@[simp] theorem State.complete_code (r : Results) (s : State) : (s.complete r).code = r.code := rfl
@[simp] theorem State.complete_field (r : Results) (s : State) : (s.complete r).field = r.field := rfl
@[simp] theorem State.complete_ie (r : Results) (s : State) : (s.complete r).ie = s.ie := rfl
@[simp] theorem State.complete_inLen (r : Results) (s : State) : (s.complete r).inLen = s.inLen := rfl
@[simp] theorem State.complete_outLen (r : Results) (s : State) : (s.complete r).outLen = r.out.length := rfl
@[simp] theorem State.complete_cksum (r : Results) (s : State) : (s.complete r).cksum = r.cksum := rfl
@[simp] theorem State.complete_decSig (r : Results) (s : State) : (s.complete r).decSig = r.decSig := rfl
@[simp] theorem State.complete_decVers (r : Results) (s : State) : (s.complete r).decVers = r.decVers := rfl
@[simp] theorem State.complete_decLen (r : Results) (s : State) : (s.complete r).decLen = r.decLen := rfl
@[simp] theorem State.complete_decCksum (r : Results) (s : State) : (s.complete r).decCksum = r.decCksum := rfl
@[simp] theorem State.complete_errExp (r : Results) (s : State) : (s.complete r).errExp = r.errExp := rfl
@[simp] theorem State.complete_errAct (r : Results) (s : State) : (s.complete r).errAct = r.errAct := rfl
@[simp] theorem State.complete_inBuf (r : Results) (s : State) : (s.complete r).inBuf = s.inBuf := rfl
@[simp] theorem State.complete_outBuf (r : Results) (s : State) : (s.complete r).outBuf = r.out.memory s.outBuf := rfl
@[simp] theorem State.complete_pending (r : Results) (s : State) : (s.complete r).pending = none := rfl
@[simp] theorem State.complete_inDraw (r : Results) (s : State) : (s.complete r).inDraw = s.inDraw := rfl
@[simp] theorem State.complete_draws (r : Results) (s : State) : (s.complete r).draws = s.draws := rfl
@[simp] theorem State.complete_agenda (r : Results) (s : State) : (s.complete r).agenda = s.agenda := rfl
@[simp] theorem State.complete_responses (r : Results) (s : State) : (s.complete r).responses = s.responses := rfl

/-! ### respond -/

@[simp] theorem State.respond_done (r : Response) (s : State) : (s.respond r).done = s.done := rfl
@[simp] theorem State.respond_haz (r : Response) (s : State) : (s.respond r).haz = s.haz := rfl
@[simp] theorem State.respond_code (r : Response) (s : State) : (s.respond r).code = s.code := rfl
@[simp] theorem State.respond_field (r : Response) (s : State) : (s.respond r).field = s.field := rfl
@[simp] theorem State.respond_ie (r : Response) (s : State) : (s.respond r).ie = s.ie := rfl
@[simp] theorem State.respond_inLen (r : Response) (s : State) : (s.respond r).inLen = s.inLen := rfl
@[simp] theorem State.respond_outLen (r : Response) (s : State) : (s.respond r).outLen = s.outLen := rfl
@[simp] theorem State.respond_cksum (r : Response) (s : State) : (s.respond r).cksum = s.cksum := rfl
@[simp] theorem State.respond_decSig (r : Response) (s : State) : (s.respond r).decSig = s.decSig := rfl
@[simp] theorem State.respond_decVers (r : Response) (s : State) : (s.respond r).decVers = s.decVers := rfl
@[simp] theorem State.respond_decLen (r : Response) (s : State) : (s.respond r).decLen = s.decLen := rfl
@[simp] theorem State.respond_decCksum (r : Response) (s : State) : (s.respond r).decCksum = s.decCksum := rfl
@[simp] theorem State.respond_errExp (r : Response) (s : State) : (s.respond r).errExp = s.errExp := rfl
@[simp] theorem State.respond_errAct (r : Response) (s : State) : (s.respond r).errAct = s.errAct := rfl
@[simp] theorem State.respond_inBuf (r : Response) (s : State) : (s.respond r).inBuf = s.inBuf := rfl
@[simp] theorem State.respond_outBuf (r : Response) (s : State) : (s.respond r).outBuf = s.outBuf := rfl
@[simp] theorem State.respond_pending (r : Response) (s : State) : (s.respond r).pending = s.pending := rfl
@[simp] theorem State.respond_inDraw (r : Response) (s : State) : (s.respond r).inDraw = s.inDraw := rfl
@[simp] theorem State.respond_draws (r : Response) (s : State) : (s.respond r).draws = s.draws + 1 := rfl
@[simp] theorem State.respond_agenda (r : Response) (s : State) : (s.respond r).agenda = s.agenda := rfl
@[simp] theorem State.respond_responses (r : Response) (s : State) : (s.respond r).responses = r :: s.responses := rfl

/-! ### resetStep -/

@[simp] theorem State.resetStep_done (s : State) : (s.resetStep).done = State.reset.done := rfl
@[simp] theorem State.resetStep_haz (s : State) : (s.resetStep).haz = State.reset.haz := rfl
@[simp] theorem State.resetStep_code (s : State) : (s.resetStep).code = State.reset.code := rfl
@[simp] theorem State.resetStep_field (s : State) : (s.resetStep).field = State.reset.field := rfl
@[simp] theorem State.resetStep_ie (s : State) : (s.resetStep).ie = State.reset.ie := rfl
@[simp] theorem State.resetStep_inLen (s : State) : (s.resetStep).inLen = State.reset.inLen := rfl
@[simp] theorem State.resetStep_outLen (s : State) : (s.resetStep).outLen = State.reset.outLen := rfl
@[simp] theorem State.resetStep_cksum (s : State) : (s.resetStep).cksum = State.reset.cksum := rfl
@[simp] theorem State.resetStep_decSig (s : State) : (s.resetStep).decSig = State.reset.decSig := rfl
@[simp] theorem State.resetStep_decVers (s : State) : (s.resetStep).decVers = State.reset.decVers := rfl
@[simp] theorem State.resetStep_decLen (s : State) : (s.resetStep).decLen = State.reset.decLen := rfl
@[simp] theorem State.resetStep_decCksum (s : State) : (s.resetStep).decCksum = State.reset.decCksum := rfl
@[simp] theorem State.resetStep_errExp (s : State) : (s.resetStep).errExp = State.reset.errExp := rfl
@[simp] theorem State.resetStep_errAct (s : State) : (s.resetStep).errAct = State.reset.errAct := rfl
@[simp] theorem State.resetStep_inBuf (s : State) : (s.resetStep).inBuf = State.reset.inBuf := rfl
@[simp] theorem State.resetStep_outBuf (s : State) : (s.resetStep).outBuf = State.reset.outBuf := rfl
@[simp] theorem State.resetStep_pending (s : State) : (s.resetStep).pending = State.reset.pending := rfl
@[simp] theorem State.resetStep_inDraw (s : State) : (s.resetStep).inDraw = s.draws := rfl
@[simp] theorem State.resetStep_draws (s : State) : (s.resetStep).draws = s.draws + 1 := rfl
@[simp] theorem State.resetStep_agenda (s : State) : (s.resetStep).agenda = s.agenda := rfl
@[simp] theorem State.resetStep_responses (s : State) : (s.resetStep).responses = s.responses := rfl

/-! ### writeStatus -/

@[simp] theorem State.writeStatus_done (w : Word) (s : State) : (s.writeStatus w).done = (s.done && !w.getLsbD 1) := rfl
@[simp] theorem State.writeStatus_haz (w : Word) (s : State) : (s.writeStatus w).haz = (s.haz && !w.getLsbD 3) := rfl
@[simp] theorem State.writeStatus_code (w : Word) (s : State) : (s.writeStatus w).code = s.code := rfl
@[simp] theorem State.writeStatus_field (w : Word) (s : State) : (s.writeStatus w).field = s.field := rfl
@[simp] theorem State.writeStatus_ie (w : Word) (s : State) : (s.writeStatus w).ie = s.ie := rfl
@[simp] theorem State.writeStatus_inLen (w : Word) (s : State) : (s.writeStatus w).inLen = s.inLen := rfl
@[simp] theorem State.writeStatus_outLen (w : Word) (s : State) : (s.writeStatus w).outLen = s.outLen := rfl
@[simp] theorem State.writeStatus_cksum (w : Word) (s : State) : (s.writeStatus w).cksum = s.cksum := rfl
@[simp] theorem State.writeStatus_decSig (w : Word) (s : State) : (s.writeStatus w).decSig = s.decSig := rfl
@[simp] theorem State.writeStatus_decVers (w : Word) (s : State) : (s.writeStatus w).decVers = s.decVers := rfl
@[simp] theorem State.writeStatus_decLen (w : Word) (s : State) : (s.writeStatus w).decLen = s.decLen := rfl
@[simp] theorem State.writeStatus_decCksum (w : Word) (s : State) : (s.writeStatus w).decCksum = s.decCksum := rfl
@[simp] theorem State.writeStatus_errExp (w : Word) (s : State) : (s.writeStatus w).errExp = s.errExp := rfl
@[simp] theorem State.writeStatus_errAct (w : Word) (s : State) : (s.writeStatus w).errAct = s.errAct := rfl
@[simp] theorem State.writeStatus_inBuf (w : Word) (s : State) : (s.writeStatus w).inBuf = s.inBuf := rfl
@[simp] theorem State.writeStatus_outBuf (w : Word) (s : State) : (s.writeStatus w).outBuf = s.outBuf := rfl
@[simp] theorem State.writeStatus_pending (w : Word) (s : State) : (s.writeStatus w).pending = s.pending := rfl
@[simp] theorem State.writeStatus_inDraw (w : Word) (s : State) : (s.writeStatus w).inDraw = s.inDraw := rfl
@[simp] theorem State.writeStatus_draws (w : Word) (s : State) : (s.writeStatus w).draws = s.draws := rfl
@[simp] theorem State.writeStatus_agenda (w : Word) (s : State) : (s.writeStatus w).agenda = s.agenda := rfl
@[simp] theorem State.writeStatus_responses (w : Word) (s : State) : (s.writeStatus w).responses = s.responses := rfl

/-! ### writeCtrl -/

@[simp] theorem State.writeCtrl_done (w : Word) (s : State) : (s.writeCtrl w).done = s.done := rfl
@[simp] theorem State.writeCtrl_haz (w : Word) (s : State) : (s.writeCtrl w).haz = s.haz := rfl
@[simp] theorem State.writeCtrl_code (w : Word) (s : State) : (s.writeCtrl w).code = s.code := rfl
@[simp] theorem State.writeCtrl_field (w : Word) (s : State) : (s.writeCtrl w).field = s.field := rfl
@[simp] theorem State.writeCtrl_ie (w : Word) (s : State) : (s.writeCtrl w).ie = w.getLsbD 0 := rfl
@[simp] theorem State.writeCtrl_inLen (w : Word) (s : State) : (s.writeCtrl w).inLen = s.inLen := rfl
@[simp] theorem State.writeCtrl_outLen (w : Word) (s : State) : (s.writeCtrl w).outLen = s.outLen := rfl
@[simp] theorem State.writeCtrl_cksum (w : Word) (s : State) : (s.writeCtrl w).cksum = s.cksum := rfl
@[simp] theorem State.writeCtrl_decSig (w : Word) (s : State) : (s.writeCtrl w).decSig = s.decSig := rfl
@[simp] theorem State.writeCtrl_decVers (w : Word) (s : State) : (s.writeCtrl w).decVers = s.decVers := rfl
@[simp] theorem State.writeCtrl_decLen (w : Word) (s : State) : (s.writeCtrl w).decLen = s.decLen := rfl
@[simp] theorem State.writeCtrl_decCksum (w : Word) (s : State) : (s.writeCtrl w).decCksum = s.decCksum := rfl
@[simp] theorem State.writeCtrl_errExp (w : Word) (s : State) : (s.writeCtrl w).errExp = s.errExp := rfl
@[simp] theorem State.writeCtrl_errAct (w : Word) (s : State) : (s.writeCtrl w).errAct = s.errAct := rfl
@[simp] theorem State.writeCtrl_inBuf (w : Word) (s : State) : (s.writeCtrl w).inBuf = s.inBuf := rfl
@[simp] theorem State.writeCtrl_outBuf (w : Word) (s : State) : (s.writeCtrl w).outBuf = s.outBuf := rfl
@[simp] theorem State.writeCtrl_pending (w : Word) (s : State) : (s.writeCtrl w).pending = s.pending := rfl
@[simp] theorem State.writeCtrl_inDraw (w : Word) (s : State) : (s.writeCtrl w).inDraw = s.inDraw := rfl
@[simp] theorem State.writeCtrl_draws (w : Word) (s : State) : (s.writeCtrl w).draws = s.draws := rfl
@[simp] theorem State.writeCtrl_agenda (w : Word) (s : State) : (s.writeCtrl w).agenda = s.agenda := rfl
@[simp] theorem State.writeCtrl_responses (w : Word) (s : State) : (s.writeCtrl w).responses = s.responses := rfl

/-! ### The agenda taken off -/

@[simp] theorem nextEvent_done (s : State) : (nextEvent s).2.done = s.done := by
  unfold nextEvent; split <;> rfl
@[simp] theorem nextEvent_haz (s : State) : (nextEvent s).2.haz = s.haz := by
  unfold nextEvent; split <;> rfl
@[simp] theorem nextEvent_code (s : State) : (nextEvent s).2.code = s.code := by
  unfold nextEvent; split <;> rfl
@[simp] theorem nextEvent_field (s : State) : (nextEvent s).2.field = s.field := by
  unfold nextEvent; split <;> rfl
@[simp] theorem nextEvent_ie (s : State) : (nextEvent s).2.ie = s.ie := by
  unfold nextEvent; split <;> rfl
@[simp] theorem nextEvent_inLen (s : State) : (nextEvent s).2.inLen = s.inLen := by
  unfold nextEvent; split <;> rfl
@[simp] theorem nextEvent_outLen (s : State) : (nextEvent s).2.outLen = s.outLen := by
  unfold nextEvent; split <;> rfl
@[simp] theorem nextEvent_cksum (s : State) : (nextEvent s).2.cksum = s.cksum := by
  unfold nextEvent; split <;> rfl
@[simp] theorem nextEvent_decSig (s : State) : (nextEvent s).2.decSig = s.decSig := by
  unfold nextEvent; split <;> rfl
@[simp] theorem nextEvent_decVers (s : State) : (nextEvent s).2.decVers = s.decVers := by
  unfold nextEvent; split <;> rfl
@[simp] theorem nextEvent_decLen (s : State) : (nextEvent s).2.decLen = s.decLen := by
  unfold nextEvent; split <;> rfl
@[simp] theorem nextEvent_decCksum (s : State) : (nextEvent s).2.decCksum = s.decCksum := by
  unfold nextEvent; split <;> rfl
@[simp] theorem nextEvent_errExp (s : State) : (nextEvent s).2.errExp = s.errExp := by
  unfold nextEvent; split <;> rfl
@[simp] theorem nextEvent_errAct (s : State) : (nextEvent s).2.errAct = s.errAct := by
  unfold nextEvent; split <;> rfl
@[simp] theorem nextEvent_inBuf (s : State) : (nextEvent s).2.inBuf = s.inBuf := by
  unfold nextEvent; split <;> rfl
@[simp] theorem nextEvent_outBuf (s : State) : (nextEvent s).2.outBuf = s.outBuf := by
  unfold nextEvent; split <;> rfl
@[simp] theorem nextEvent_pending (s : State) : (nextEvent s).2.pending = s.pending := by
  unfold nextEvent; split <;> rfl
@[simp] theorem nextEvent_inDraw (s : State) : (nextEvent s).2.inDraw = s.inDraw := by
  unfold nextEvent; split <;> rfl
@[simp] theorem nextEvent_draws (s : State) : (nextEvent s).2.draws = s.draws := by
  unfold nextEvent; split <;> rfl
@[simp] theorem nextEvent_responses (s : State) : (nextEvent s).2.responses = s.responses := by
  unfold nextEvent; split <;> rfl

@[simp] theorem nextEvent_agenda (s : State) : (nextEvent s).2.agenda = s.agenda.tail := by
  unfold nextEvent; split <;> simp_all

/-! ### Functions of the state -/

@[simp] theorem State.accept_busy (c : Config) (w : Word) (s : State) : (s.accept c w).busy = true := rfl

@[simp] theorem State.complete_busy (r : Results) (s : State) : (s.complete r).busy = false := rfl

@[simp] theorem State.respond_busy (r : Response) (s : State) : (s.respond r).busy = s.busy := rfl

@[simp] theorem State.dropWrite_busy (s : State) : s.dropWrite.busy = s.busy := rfl

@[simp] theorem State.resetStep_busy (s : State) : s.resetStep.busy = false := rfl

@[simp] theorem nextEvent_busy (s : State) : (nextEvent s).2.busy = s.busy := by
  simp [State.busy]

/-- InBuf's bytes depend on nothing but InBuf and its draw. -/
theorem State.inByte_congr (c : Config) (s t : State) (hb : t.inBuf = s.inBuf) (hd : t.inDraw = s.inDraw) :
    t.inByte c = s.inByte c := by
  funext i; simp [State.inByte, hb, hd]

/-- The input prefix depends on nothing but InBuf and its draw. -/
theorem State.inPrefix_congr (c : Config) (s t : State) (hb : t.inBuf = s.inBuf) (hd : t.inDraw = s.inDraw) :
    t.inPrefix c = s.inPrefix c := by
  funext len; simp [State.inPrefix, State.inByte_congr c s t hb hd]

/-- The input prefix has the length IN_LEN names, up to `IN_CAP`. -/
@[simp] theorem State.inPrefix_length (c : Config) (s : State) (len : Word) :
    (s.inPrefix c len).length = min len.toNat c.inCap := by
  simp [State.inPrefix]

end Sys2Proof.Machine
end

