-- ==== Sys2Proof/Laws/Bus.lean ====
section
/-! SUPPORT. The address map and the register map, said once each. -/

namespace Sys2Proof.Machine

/-- `IN_CAP` lies between its bounds. -/
theorem Config.inCap_bounds (c : Config) : 8 ≤ c.inCap ∧ c.inCap ≤ 2 ^ 30 - 8 := by
  have := c.inCapLess8.isLt
  simp only [Config.inCap]
  omega

theorem regionOf_reg_iff (c : Config) (a : Nat) : regionOf c a = .reg ↔ a < 0x1000 := by
  unfold regionOf; split_ifs <;> simp_all

theorem regionOf_inBuf_iff (c : Config) (a : Nat) : regionOf c a = .inBuf ↔ inBase ≤ a ∧ a < inBase + c.inCap := by
  unfold regionOf inBase outBase; split_ifs <;> simp_all; omega

theorem regionOf_outBuf_iff (c : Config) (a : Nat) : regionOf c a = .outBuf ↔ outBase ≤ a ∧ a < outBase + c.outCap := by
  have := Config.inCap_bounds c
  unfold regionOf inBase outBase Config.outCap; split_ifs <;> simp_all <;> omega

theorem regionOf_unmapped_iff (c : Config) (a : Nat) :
    regionOf c a = .unmapped ↔
      ¬ a < 0x1000 ∧ ¬ (inBase ≤ a ∧ a < inBase + c.inCap) ∧ ¬ (outBase ≤ a ∧ a < outBase + c.outCap) := by
  unfold regionOf; split_ifs <;> simp_all

/-- Every register is found at its offset. -/
@[simp] theorem regAt_offset (r : Reg) : regAt r.offset = some r := by cases r <;> rfl

/-- A register is found only at its offset. -/
theorem offset_of_regAt {o : Nat} {r : Reg} (h : regAt o = some r) : r.offset = o := by
  simpa using List.find?_some h

/-- At a reserved offset no register is found. -/
theorem regAt_eq_none (o : Nat) : regAt o = none ↔ ∀ r : Reg, r.offset ≠ o := by
  unfold regAt
  rw [List.find?_eq_none]
  constructor
  · intro h r
    have := h r (by cases r <;> simp [Reg.all])
    simpa using this
  · intro h r _
    simpa using h r

end Sys2Proof.Machine
end

