-- ==== Sys2Proof/Laws/Codec.lean ====
section
/-! SUPPORT. What the container functions answer, said once each. -/

namespace Sys2Proof.Machine

@[simp] theorem Header.bytes_length (h : Header) : h.bytes.length = 8 := rfl

/-- Splitting a header followed by a candidate gives both back. -/
@[simp] theorem splitContainer_bytes (h : Header) (cand : ByteSeq) : splitContainer (h.bytes ++ cand) = .ok (h, cand) := rfl

/-- Fewer than 8 bytes do not split. -/
theorem splitContainer_short (bytes : ByteSeq) (hl : bytes.length < 8) :
    splitContainer bytes = .error (.shortContainer bytes.length) := by
  match bytes, hl with
  | [], _ | [_], _ | [_, _], _ | [_, _, _], _ | [_, _, _, _], _ | [_, _, _, _, _], _ | [_, _, _, _, _, _], _
  | [_, _, _, _, _, _, _], _ => rfl
  | _ :: _ :: _ :: _ :: _ :: _ :: _ :: _ :: _, h => simp at h; omega

/-- Eight or more bytes are a header followed by a candidate. -/
theorem header_of_length (bytes : ByteSeq) (hl : 8 ≤ bytes.length) : ∃ h cand, bytes = Header.bytes h ++ cand := by
  match bytes, hl with
  | b0 :: b1 :: b2 :: b3 :: b4 :: b5 :: b6 :: b7 :: cand, _ => exact ⟨⟨b0, b1, b2, b3, b4, b5, b6, b7⟩, cand, rfl⟩
  | [], h | [_], h | [_, _], h | [_, _, _], h | [_, _, _, _], h | [_, _, _, _, _], h | [_, _, _, _, _, _], h
  | [_, _, _, _, _, _, _], h => simp at h

/-- The stages of `decode` before the checksum, on a container with a header: the first failure decides. -/
theorem checkHeader_eq (c : Config) (h : Header) (cand : ByteSeq) :
    checkHeader c (h.bytes ++ cand) =
      if (c.sigCheck && h.sig != signatureByte) = true then .error (.signatureError h.sig)
      else if (unpackVersions h.vers).comp ≠ compNone then
        .error (.unsupportedAlgorithm .compression (unpackVersions h.vers).comp)
      else if (unpackVersions h.vers).nc ≠ ncNone then
        .error (.unsupportedAlgorithm .noiseCancellation (unpackVersions h.vers).nc)
      else if cand.length ≠ h.length.toNat then .error (.lengthMismatch h.length cand.length)
      else .ok (h, cand) := by
  simp only [checkHeader, splitContainer_bytes, checkSignature, checkAlgorithms, checkLength, bind, Except.bind, pure, Except.pure]
  split_ifs <;> simp_all

/-- A container without a header fails with code 6. -/
theorem checkHeader_short (c : Config) (bytes : ByteSeq) (hl : bytes.length < 8) :
    checkHeader c bytes = .error (.shortContainer bytes.length) := by
  simp [checkHeader, splitContainer_short bytes hl, bind, Except.bind]

/-- `decode` is the header stages followed by the checksum. -/
theorem decodeContainer_eq (c : Config) (bytes : ByteSeq) :
    decodeContainer c bytes =
      match checkHeader c bytes with
      | .error e => .error e
      | .ok (h, cand) =>
        if cs2 c cand ≠ h.stored then .error (.checksumMismatch (pair16 h.stored) (cs16 c cand)) else .ok cand := by
  simp only [decodeContainer, verifyChecksum, bind, Except.bind, pure, Except.pure]
  rcases checkHeader c bytes with e | ⟨h, cand⟩
  · rfl
  · by_cases hc : cs2 c cand = h.stored <;> simp [hc]

/-- `decode` on a container with a header: the first failure decides. -/
theorem decodeContainer_bytes (c : Config) (h : Header) (cand : ByteSeq) :
    decodeContainer c (h.bytes ++ cand) =
      if (c.sigCheck && h.sig != signatureByte) = true then .error (.signatureError h.sig)
      else if (unpackVersions h.vers).comp ≠ compNone then
        .error (.unsupportedAlgorithm .compression (unpackVersions h.vers).comp)
      else if (unpackVersions h.vers).nc ≠ ncNone then
        .error (.unsupportedAlgorithm .noiseCancellation (unpackVersions h.vers).nc)
      else if cand.length ≠ h.length.toNat then .error (.lengthMismatch h.length cand.length)
      else if cs2 c cand ≠ h.stored then .error (.checksumMismatch (pair16 h.stored) (cs16 c cand))
      else .ok cand := by
  rw [decodeContainer_eq, checkHeader_eq]
  split_ifs <;> simp_all

/-- A container without a header fails with code 6. -/
theorem decodeContainer_short (c : Config) (bytes : ByteSeq) (hl : bytes.length < 8) :
    decodeContainer c bytes = .error (.shortContainer bytes.length) := by
  rw [decodeContainer_eq, checkHeader_short c bytes hl]

/-- `encode` of a payload whose length fits. -/
theorem encodeContainer_ok (c : Config) (p : ByteSeq) (h : p.length ≤ maxPayload) :
    encodeContainer c p = .ok (encodeHeader c p ++ p) := by
  simp only [encodeContainer, if_neg (Nat.not_lt.mpr h)]

/-- The header a DECODE parses from a container that has one. -/
@[simp] theorem parsedHeader_bytes (h : Header) (cand : ByteSeq) : parsedHeader (h.bytes ++ cand) = some h := rfl

/-- A short container has no header. -/
theorem parsedHeader_short (bytes : ByteSeq) (hl : bytes.length < 8) : parsedHeader bytes = none := by
  simp [parsedHeader, splitContainer_short bytes hl]

/-- The two bytes of the checksum are the first two of the digest. -/
theorem cs2_eq (c : Config) (p : ByteSeq) : cs2 c p = (c.digestByte p 0, c.digestByte p 1) := by
  simp [cs2, Config.digest]

/-- The header that `encode_header` writes, as a record. -/
def headerOf (c : Config) (p : ByteSeq) : Header :=
  let n : Word := BitVec.ofNat 32 p.length
  ⟨signatureByte, packVersions ⟨fileVersion, compNone, ncNone⟩, n.extractLsb' 24 8, n.extractLsb' 16 8, n.extractLsb' 8 8,
    n.extractLsb' 0 8, (cs2 c p).1, (cs2 c p).2⟩

/-- `encode_header` writes the bytes of that header. -/
theorem encodeHeader_eq (c : Config) (p : ByteSeq) : encodeHeader c p = (headerOf c p).bytes := rfl

@[simp] theorem encodeHeader_length (c : Config) (p : ByteSeq) : (encodeHeader c p).length = 8 := rfl

end Sys2Proof.Machine
end

