-- ==== Sys2Proof/Laws/Decode.lean ====
section
/-! SUPPORT. The fields of a command word as numbers. -/

namespace Sys2Proof

/-- Bits 31:4 are clear exactly when the word is below 16. -/
theorem splitWord_reservedClear (w : Word) : (splitWord w).reservedClear = true ↔ w.toNat < 16 := by
  have := w.isLt
  simp only [splitWord, CommandFields.reservedClear, beq_iff_eq, BitVec.toNat_eq, BitVec.extractLsb'_toNat,
    Nat.shiftRight_eq_div_pow, BitVec.ofNat_eq_ofNat, BitVec.toNat_ofNat]
  omega

/-- `OP` is the word modulo 16. -/
theorem splitWord_op (w : Word) (k : BitVec 4) : (splitWord w).op = k ↔ w.toNat % 16 = k.toNat := by
  simp only [splitWord, BitVec.toNat_eq, BitVec.extractLsb'_toNat, Nat.shiftRight_zero]

end Sys2Proof
end

