-- ==== Sys2Proof/Laws/Memory.lean ====
section
/-! SUPPORT. The memory laws: read after write, the canonical form is kept by every memory operation, and what `ofBytes` lists. -/

namespace Sys2Proof.Machine

@[simp] theorem Memory.read_nil (a : Nat) : Memory.read [] a = none := rfl

/-- Read after write: the byte written there, every other byte as before. -/
theorem Memory.read_write (m : Memory) (a : Nat) (v : Byte) (b : Nat) :
    Memory.read (Memory.write m a v) b = if b = a then some v else Memory.read m b := by
  induction m with
  | nil => simp only [Memory.write, Memory.read]; split <;> simp_all [eq_comm]
  | cons cell m ih =>
    obtain ⟨x, w⟩ := cell
    simp only [Memory.write]
    split_ifs <;> simp only [Memory.read, ih] <;> split_ifs <;> first | rfl | omega

/-- Bytes written at rising indices: those indices hold them, every other index is as before. -/
theorem Memory.read_writeBytes (vs : ByteSeq) (m : Memory) (a b : Nat) :
    Memory.read (Memory.writeBytes m a vs) b =
      if a ≤ b ∧ b < a + vs.length then vs[b - a]? else Memory.read m b := by
  induction vs generalizing m a with
  | nil => simp [Memory.writeBytes]
  | cons v vs ih =>
    simp only [Memory.writeBytes, ih, Memory.read_write, List.length_cons]
    by_cases h : b = a
    · subst h; simp
    · by_cases h2 : a + 1 ≤ b ∧ b < a + 1 + vs.length
      · rw [if_pos h2, if_pos (by omega), show b - a = (b - (a + 1)) + 1 by omega]; simp
      · rw [if_neg h2, if_neg h, if_neg (by omega)]

theorem Memory.read_ofBytes (vs : ByteSeq) (a b : Nat) :
    Memory.read (Memory.ofBytes a vs) b = if a ≤ b then vs[b - a]? else none := by
  induction vs generalizing a with
  | nil => simp [Memory.ofBytes]
  | cons v vs ih =>
    simp only [Memory.ofBytes, Memory.read, ih]
    by_cases h : a = b
    · subst h; simp
    · by_cases h2 : a + 1 ≤ b
      · rw [if_neg h, if_pos h2, if_pos (by omega), show b - a = (b - (a + 1)) + 1 by omega]; simp
      · rw [if_neg h, if_neg h2, if_neg (by omega)]

/-- What `ofBytes` lists from index 0. -/
@[simp] theorem Memory.read_ofBytes_zero (vs : ByteSeq) (b : Nat) :
    Memory.read (Memory.ofBytes 0 vs) b = vs[b]? := by
  simp [Memory.read_ofBytes]

theorem Memory.wfFrom_mono {lo lo' : Nat} (h : lo ≤ lo') (m : Memory) (hm : Memory.wfFrom lo' m = true) :
    Memory.wfFrom lo m = true := by
  cases m with
  | nil => rfl
  | cons cell m => simp_all [Memory.wfFrom]; omega

theorem Memory.wfFrom_write (m : Memory) (lo a : Nat) (v : Byte) (h : lo ≤ a) (hm : Memory.wfFrom lo m = true) :
    Memory.wfFrom lo (Memory.write m a v) = true := by
  induction m generalizing lo with
  | nil => simp [Memory.write, Memory.wfFrom, h]
  | cons cell m ih =>
    obtain ⟨x, w⟩ := cell
    simp only [Memory.wfFrom, Bool.and_eq_true, decide_eq_true_eq] at hm
    simp only [Memory.write]
    split_ifs with h1 h2
    · simp [Memory.wfFrom, h, hm.2]; omega
    · subst h2; simp [Memory.wfFrom, h, hm.2]
    · simp only [Memory.wfFrom, Bool.and_eq_true, decide_eq_true_eq]
      exact ⟨hm.1, ih (x + 1) (by omega) hm.2⟩

/-- Writing keeps the canonical form. -/
theorem Memory.wf_write (m : Memory) (a : Nat) (v : Byte) (hm : Memory.wf m = true) :
    Memory.wf (Memory.write m a v) = true :=
  Memory.wfFrom_write m 0 a v (Nat.zero_le a) hm

/-- Writing several bytes keeps the canonical form. -/
theorem Memory.wf_writeBytes (vs : ByteSeq) (m : Memory) (a : Nat) (hm : Memory.wf m = true) :
    Memory.wf (Memory.writeBytes m a vs) = true := by
  induction vs generalizing m a with
  | nil => exact hm
  | cons v vs ih => exact ih _ _ (Memory.wf_write m a v hm)

theorem Memory.wfFrom_ofBytes (vs : ByteSeq) (lo a : Nat) (h : lo ≤ a) : Memory.wfFrom lo (Memory.ofBytes a vs) = true := by
  induction vs generalizing lo a with
  | nil => rfl
  | cons v vs ih => simp [Memory.ofBytes, Memory.wfFrom, h, ih]

/-- A memory made of a byte sequence is in canonical form. -/
theorem Memory.wf_ofBytes (vs : ByteSeq) (a : Nat) : Memory.wf (Memory.ofBytes a vs) = true :=
  Memory.wfFrom_ofBytes vs 0 a (Nat.zero_le a)

theorem Memory.below_cons (cap x : Nat) (w : Byte) (m : Memory) :
    Memory.below cap ((x, w) :: m) = true ↔ x < cap ∧ Memory.below cap m = true := by
  simp only [Memory.below, List.all_cons, Bool.and_eq_true, decide_eq_true_eq]

theorem Memory.below_write (m : Memory) (cap a : Nat) (v : Byte) (h : a < cap) (hm : Memory.below cap m = true) :
    Memory.below cap (Memory.write m a v) = true := by
  induction m with
  | nil => simp [Memory.write, Memory.below, h]
  | cons cell m ih =>
    obtain ⟨x, w⟩ := cell
    rw [Memory.below_cons] at hm
    simp only [Memory.write]
    split_ifs <;> simp only [Memory.below_cons] <;> first | exact ⟨h, hm⟩ | exact ⟨h, hm.2⟩ | exact ⟨hm.1, ih hm.2⟩

/-- Writing inside the capacity keeps every listed index inside it. -/
theorem Memory.below_writeBytes (vs : ByteSeq) (m : Memory) (cap a : Nat) (h : a + vs.length ≤ cap)
    (hm : Memory.below cap m = true) : Memory.below cap (Memory.writeBytes m a vs) = true := by
  induction vs generalizing m a with
  | nil => exact hm
  | cons v vs ih =>
    simp only [List.length_cons] at h
    exact ih _ _ (by omega) (Memory.below_write m cap a v (by omega) hm)

theorem Memory.below_ofBytes (vs : ByteSeq) (cap a : Nat) (h : a + vs.length ≤ cap) :
    Memory.below cap (Memory.ofBytes a vs) = true := by
  induction vs generalizing a with
  | nil => rfl
  | cons v vs ih =>
    simp only [List.length_cons] at h
    exact (Memory.below_cons cap a v _).mpr ⟨by omega, ih (a + 1) (by omega)⟩

/-- What a completion leaves in OutBuf is in canonical form if OutBuf was. -/
theorem OutResult.wf_memory (o : OutResult) (m : Memory) (hm : Memory.wf m = true) : Memory.wf (o.memory m) = true := by
  cases o with
  | bytes r => exact Memory.wf_ofBytes r 0
  | kept => exact hm
  | undefined => rfl

/-- The memory of the reset state is in canonical form. -/
theorem State.reset_memory_wf : Memory.wf State.reset.inBuf = true ∧ Memory.wf State.reset.outBuf = true := ⟨rfl, rfl⟩

end Sys2Proof.Machine
end

