-- ==== Sys2Proof/Laws/PerInstr.lean ====
section
/-! SUPPORT. Statements about every command as syntax, one lemma per constructor. -/

namespace Sys2Proof.Laws.CommandWordForm

/-- The command is well-formed, and splitting its word gives its fields back (30_encoding.md R53, R54). -/
def Statement (i : Instr) : Prop := i.wellFormed = true ∧ splitWord (encodeWord i) = i.fields

theorem encode : Statement .encode := ⟨rfl, by decide⟩

theorem decode : Statement .decode := ⟨rfl, by decide⟩

theorem checksum : Statement .checksum := ⟨rfl, by decide⟩

end Sys2Proof.Laws.CommandWordForm
end

