-- ==== Sys2Proof/Laws/Step.lean ====
section
/-! SUPPORT. What a step, a command and a bus access can do, said once each. -/

namespace Sys2Proof.Machine

/-- A command on its input, whatever the state: the results of a unit's configuration. -/
def commandResults (c : Config) (i : Instr) (x : Input) : Results :=
  match i with
  | .encode => encodeResults c x
  | .decode => decodeResults c x
  | .checksum => checksumResults c x

/-- Every command answers a next state: a completion with its results. -/
theorem exec_eq (i : Instr) (s : State) :
    exec i s = .next (s.complete (commandResults Config.unit i (s.input Config.unit))) := by
  cases i <;> rfl

/-- The input of a pending command. -/
theorem State.input_pending (c : Config) (s : State) (p : Pending) (h : s.pending = some p) : s.input c = ⟨p.len, p.data⟩ := by
  simp [State.input, h]

/-- The completion of a word that decodes is its command's. -/
theorem completion_ok (c : Config) (p : Pending) (i : Instr) (h : decodeWord p.word = .ok i) :
    completion c p = commandResults c i ⟨p.len, p.data⟩ := by
  simp only [completion, h]; cases i <;> rfl

/-- The completion of a word that does not decode is code 7. -/
theorem completion_error (c : Config) (p : Pending) (e : DecodeError) (h : decodeWord p.word = .error e) :
    completion c p = illegalResults p.word := by
  simp only [completion, h]

/-- One event answers a next state. -/
theorem takeEvent_eq (e : Event) (s : State) : takeEvent e s = .next (eventStep Config.unit e s) := by
  cases e with
  | access a => rfl
  | reset => rfl
  | complete =>
    simp only [takeEvent, unitTurn, eventStep]
    cases hp : s.pending with
    | none => rfl
    | some p =>
      cases hd : decodeWord p.word with
      | ok i => simp only [hd, exec_eq, completion_ok _ _ _ hd, State.input_pending _ _ _ hp]
      | error e => simp only [hd, completion_error _ _ _ hd]

/-- A step never faults and never refuses: it is the next event. -/
theorem step_eq (s : State) : step s = .next (eventStep Config.unit (nextEvent s).1 (nextEvent s).2) :=
  takeEvent_eq _ _

/-- What a write that passed the checks can do. -/
theorem busWrite_cases (c : Config) (a : Access) (s : State) :
    busWrite c a s = s ∨ (s.busy = true ∧ busWrite c a s = s.dropWrite) ∨
    (s.busy = false ∧ regAt a.addr.toNat = some .cmd ∧ busWrite c a s = s.accept c a.wdata) ∨
    (regAt a.addr.toNat = some .status ∧ busWrite c a s = s.writeStatus a.wdata) ∨
    (regAt a.addr.toNat = some .ctrl ∧ busWrite c a s = s.writeCtrl a.wdata) ∨
    (s.busy = false ∧ regAt a.addr.toNat = some .inLen ∧ busWrite c a s = { s with inLen := a.wdata }) ∨
    (s.busy = false ∧ regionOf c a.addr.toNat = .inBuf ∧
      busWrite c a s =
        { s with inBuf := Memory.writeBytes s.inBuf (a.addr.toNat - inBase) (writeLanes a.size a.wdata) }) := by
  unfold busWrite
  cases hr : regionOf c a.addr.toNat with
  | outBuf => exact .inl (by simp only [hr])
  | unmapped => exact .inl (by simp only [hr])
  | inBuf => cases hb : s.busy <;> simp [hr, hb, State.writeInBuf]
  | reg =>
    cases hg : regAt a.addr.toNat with
    | none => exact .inl (by simp only [hr, hg])
    | some r => cases r <;> cases hb : s.busy <;> simp [hr, hg, hb, State.writeReg, State.writeCmd, State.writeInLen]

/-- What a bus access can do: an ERROR, a read, or a write that passed the checks. -/
theorem busAccess_cases (c : Config) (a : Access) (s : State) :
    (accessError c a = true ∧ busAccess c a s = s.respond ⟨.error, 0⟩) ∨
    (accessError c a = false ∧ a.kind = .read ∧ busAccess c a s = s.respond ⟨.okay, busRead c a s⟩) ∨
    (accessError c a = false ∧ a.kind = .write ∧ busAccess c a s = (busWrite c a s).respond ⟨.okay, 0⟩) := by
  unfold busAccess
  cases accessError c a <;> cases a.kind <;> simp

/-- An access never touches the result registers or OutBuf. -/
theorem busAccess_results (c : Config) (a : Access) (s : State) :
    let t := busAccess c a s
    t.outLen = s.outLen ∧ t.cksum = s.cksum ∧ t.decSig = s.decSig ∧ t.decVers = s.decVers ∧ t.decLen = s.decLen ∧
      t.decCksum = s.decCksum ∧ t.errExp = s.errExp ∧ t.errAct = s.errAct ∧ t.outBuf = s.outBuf ∧ t.inDraw = s.inDraw ∧
      t.agenda = s.agenda ∧ t.draws = s.draws + 1 := by
  rcases busAccess_cases c a s with ⟨-, h⟩ | ⟨-, -, h⟩ | ⟨-, -, h⟩ <;> simp only [h, State.respond_outLen, State.respond_cksum,
    State.respond_decSig, State.respond_decVers, State.respond_decLen, State.respond_decCksum, State.respond_errExp,
    State.respond_errAct, State.respond_outBuf, State.respond_inDraw, State.respond_agenda, State.respond_draws, and_self]
  rcases busWrite_cases c a s with h | ⟨-, h⟩ | ⟨-, -, h⟩ | ⟨-, h⟩ | ⟨-, h⟩ | ⟨-, -, h⟩ | ⟨-, -, h⟩ <;> simp [h]

end Sys2Proof.Machine
end

