-- ==== Sys2Proof/Laws/Run.lean ====
section
/-! SUPPORT. Runs of the machine behind the host's interface. -/

namespace Sys2Proof.Machine

/-- A run of `n + 1` steps is a step followed by a run of `n`. -/
theorem core_run_succ (n : Nat) {s t : State} (h : step s = .next t) : core.run (n + 1) s = core.run n t := by
  have h' : core.step s = .next t := h
  refine (Host.Core.run.eq_2 core s n).trans ?_
  rw [h']

end Sys2Proof.Machine
end

