-- ==== Sys2Proof/Machine/Reference.lean ====
section
/-! DEFINITION. The reference configuration (42_checksum_unit.md R77): `DIGEST` is SHA-1, `DIGEST_LEN` 20. The spec names FIPS 180-4 and
does not give the algorithm, so what follows is PRESUMED (log 15). No step of the machine uses it: it serves concrete checksum values. -/

namespace Sys2Proof.Machine

/-- Padding: a one bit, zeros, and the message's length in bits as 8 big-endian bytes. -/
def sha1Pad (m : ByteSeq) : ByteSeq :=
  let bits := BitVec.ofNat 64 (8 * m.length)
  m ++ [0x80] ++ List.replicate ((119 - m.length % 64) % 64) 0
    ++ be32 (bits.extractLsb' 32 32) ++ be32 (bits.extractLsb' 0 32)

/-- Big-endian words of a byte sequence. -/
def sha1Words : ByteSeq → List Word
  | b0 :: b1 :: b2 :: b3 :: rest => be32Read b0 b1 b2 b3 :: sha1Words rest
  | _ => []

/-- Extend a message schedule, held newest word first, by `n` words. -/
def sha1Extend : Nat → List Word → List Word
  | 0, w => w
  | n + 1, w =>
    sha1Extend n (((w.getD 2 0 ^^^ w.getD 7 0 ^^^ w.getD 13 0 ^^^ w.getD 15 0).rotateLeft 1) :: w)

/-- The five chaining words. -/
structure Sha1State where
  a : Word
  b : Word
  c : Word
  d : Word
  e : Word
  deriving DecidableEq, Repr

/-- The initial chaining words. -/
def sha1Init : Sha1State := ⟨0x67452301, 0xEFCDAB89, 0x98BADCFE, 0x10325476, 0xC3D2E1F0⟩

/-- The round function and constant of round `t`. -/
def sha1Mix (t : Nat) (h : Sha1State) : Word :=
  if t < 20 then ((h.b &&& h.c) ||| (~~~h.b &&& h.d)) + 0x5A827999
  else if t < 40 then (h.b ^^^ h.c ^^^ h.d) + 0x6ED9EBA1
  else if t < 60 then ((h.b &&& h.c) ||| (h.b &&& h.d) ||| (h.c &&& h.d)) + 0x8F1BBCDC
  else (h.b ^^^ h.c ^^^ h.d) + 0xCA62C1D6

/-- The rounds over a message schedule, from round `t`. -/
def sha1Rounds : Nat → List Word → Sha1State → Sha1State
  | _, [], h => h
  | t, w :: ws, h =>
    sha1Rounds (t + 1) ws ⟨h.a.rotateLeft 5 + sha1Mix t h + h.e + w, h.a, h.b.rotateLeft 30, h.c, h.d⟩

/-- One block of 16 words. -/
def sha1Block (h : Sha1State) (w : List Word) : Sha1State :=
  let r := sha1Rounds 0 (sha1Extend 64 w.reverse).reverse h
  ⟨h.a + r.a, h.b + r.b, h.c + r.c, h.d + r.d, h.e + r.e⟩

/-- At most `n` blocks of a padded message. -/
def sha1Blocks : Nat → List Word → Sha1State → Sha1State
  | 0, _, h => h
  | n + 1, ws, h => if ws.isEmpty then h else sha1Blocks n (ws.drop 16) (sha1Block h (ws.take 16))

/-- SHA-1 of a byte sequence, 20 bytes. -/
def sha1 (m : ByteSeq) : ByteSeq :=
  let ws := sha1Words (sha1Pad m)
  let h := sha1Blocks ws.length ws sha1Init
  be32 h.a ++ be32 h.b ++ be32 h.c ++ be32 h.d ++ be32 h.e

/-- The reference configuration (R77) with the given capacity (as `IN_CAP - 8`), signature check and draws. -/
def referenceConfig (inCapLess8 : Fin (2 ^ 30 - 16 + 1)) (sigCheck : Bool) (inBufDraw : Nat → Nat → Byte)
    (freeWord : Nat → Word) : Config where
  inCapLess8 := inCapLess8
  digestLenLess2 := 18
  digestByte := fun p i => (sha1 p).getD i 0
  sigCheck := sigCheck
  inBufDraw := inBufDraw
  freeWord := freeWord

end Sys2Proof.Machine
end

