-- ==== Sys2Proof/Tests/Slice0.lean ====
section
/-! SUPPORT. Tests, and a witness for the hypotheses of each statement. Expected results come from the spec: 30_encoding.md for words,
95_test_vectors.md for vectors. -/

namespace Sys2Proof.Tests

open Sys2Proof.Machine

/-! ## Encoding -/

theorem test_fields_of_commands_are_well_formed :
    Instr.encode.wellFormed = true ∧ Instr.decode.wellFormed = true ∧ Instr.checksum.wellFormed = true := by decide

/-- R53: bit 4, the lowest reserved bit, and bit 31, the highest. -/
theorem test_reserved_bits_are_refused :
    CommandFields.reservedClear ⟨0x0000001, 0x1⟩ = false ∧ CommandFields.reservedClear ⟨0x8000000, 0x1⟩ = false ∧
      CommandFields.wellFormed ⟨0x0000001, 0x1⟩ = false := by decide

/-- R54: `OP` 0x0, 0x4 and 0xF. -/
theorem test_undefined_op_is_refused :
    CommandFields.opDefined ⟨0, 0x0⟩ = false ∧ CommandFields.opDefined ⟨0, 0x4⟩ = false ∧
      CommandFields.wellFormed ⟨0, 0xF⟩ = false := by decide

/-- R54: the words of the opcode map, bit 31 first. -/
theorem test_decode_command_words :
    decodeWord 0b00000000000000000000000000000001 = .ok .encode ∧
      decodeWord 0b00000000000000000000000000000010 = .ok .decode ∧
      decodeWord 0b00000000000000000000000000000011 = .ok .checksum := by decide

theorem test_encode_command_words :
    encodeWord .encode = 0b00000000000000000000000000000001 ∧
      encodeWord .decode = 0b00000000000000000000000000000010 ∧
      encodeWord .checksum = 0b00000000000000000000000000000011 := by decide

/-- R55, and the illegal words of table 2.8. -/
theorem test_decode_illegal_words :
    decodeWord 0x00000000 = .error .undefinedOp ∧ decodeWord 0x00000004 = .error .undefinedOp ∧
      decodeWord 0x00000011 = .error .reservedBits ∧ decodeWord 0xFFFFFFFF = .error .reservedBits := by decide

/-- The opcode table's rows, as its numbering gives them. -/
theorem test_decode_table_words :
    decodeTableWord 32 0x1 = some .encode ∧ decodeTableWord 32 0x2 = some .decode ∧
      decodeTableWord 32 0x3 = some .checksum ∧ decodeTableWord 32 0x5 = none := by decide

/-! ## Commands, under the reference configuration (42_checksum_unit.md R77) -/

/-- The reference configuration with `IN_CAP` 10 (table 2.9). -/
def cfg : Config := referenceConfig 2 true (fun _ i => BitVec.ofNat 8 (0xA0 + i)) (fun n => BitVec.ofNat 32 (0xF0000000 + n))

/-- The reset state after the host has written these input bytes and IN_LEN. -/
def loaded (bytes : ByteSeq) : State :=
  { State.reset with inBuf := Memory.ofBytes 0 bytes, inLen := BitVec.ofNat 32 bytes.length }

/-- A command on these input bytes: accept, then completion. -/
def ran (w : Word) (bytes : ByteSeq) : State :=
  eventStep cfg .complete ((loaded bytes).accept cfg w)

/-- Table 2.4, "AB". -/
theorem test_encode_AB :
    (List.range 10).map (ran 0x1 [0x41, 0x42]).outByte =
      [0x8F, 0x00, 0x00, 0x00, 0x00, 0x02, 0x06, 0xD9, 0x41, 0x42].map some ∧
    (ran 0x1 [0x41, 0x42]).outLen = 10 ∧ (ran 0x1 [0x41, 0x42]).statusWord = 0x002 ∧
    (ran 0x1 [0x41, 0x42]).readReg .cksum = 0x000006D9 := by decide +kernel

/-- R79, R80 on table 2.8's pattern with `IN_CAP` 10: IN_LEN 11 fails with code 8. -/
theorem test_encode_in_len_too_large :
    let t := eventStep cfg .complete (State.accept cfg 0x1 { State.reset with inLen := 11 })
    t.statusWord = 0x086 ∧ t.errExp = 10 ∧ t.errAct = 11 ∧ t.outLen = 0 := by decide +kernel

/-- Table 2.5, D2. -/
theorem test_decode_AB :
    let t := ran 0x2 [0x8F, 0x00, 0x00, 0x00, 0x00, 0x02, 0x06, 0xD9, 0x41, 0x42]
    [t.outByte 0, t.outByte 1, t.outByte 2] = [some 0x41, some 0x42, none] ∧ t.outLen = 2 ∧ t.statusWord = 0x002 ∧
    t.decHdrWord = 0x0000008F ∧ t.decLen = 2 ∧ t.decCksum = 0x06D9 ∧ t.cksum = 0x06D9 := by decide +kernel

/-- Table 2.5, D7. -/
theorem test_decode_noise_cancellation_id :
    let t := ran 0x2 [0x8F, 0x01, 0x00, 0x00, 0x00, 0x00, 0xDA, 0x39]
    t.statusWord = 0x126 ∧ t.errExp = 0 ∧ t.errAct = 1 ∧ t.decHdrWord = 0x0040018F ∧ t.decCksum = 0xDA39 ∧ t.cksum = 0 := by
  decide +kernel

/-- Table 2.6: the header is not skipped, and OUT_LEN is 0. -/
theorem test_checksum_AB : (ran 0x3 [0x41, 0x42]).cksum = 0x06D9 ∧ (ran 0x3 [0x41, 0x42]).outLen = 0 := by decide +kernel

/-- Table 2.6, the empty input. -/
theorem test_checksum_empty : (ran 0x3 []).cksum = 0xDA39 ∧ (ran 0x3 []).statusWord = 0x002 := by decide +kernel

/-- Table 2.8: an illegal word is checked before IN_LEN. -/
theorem test_illegal_word :
    let t := eventStep cfg .complete (State.accept cfg 0x5 { State.reset with inLen := 65 })
    t.statusWord = 0x076 ∧ t.errExp = 0 ∧ t.errAct = 5 := by decide +kernel

/-! ## Container functions -/

/-- Table 2.1. -/
theorem test_pack_versions :
    packVersions ⟨0, 1, 0⟩ = 0x04 ∧ packVersions ⟨0, 0, 3⟩ = 0x03 ∧ packVersions ⟨15, 0, 0⟩ = 0xF0 ∧
      unpackVersions 0xF6 = ⟨15, 1, 2⟩ := by decide

/-- Table 2.2. -/
theorem test_be32 :
    be32 0x01020304 = [0x01, 0x02, 0x03, 0x04] ∧ be32Read 0x80 0x00 0x00 0x00 = 0x80000000 := by decide

/-- 42_checksum_unit.md R77 and table 2.3. -/
theorem test_reference_checksums :
    cs16 cfg [] = 0xDA39 ∧ cs2 cfg [0x8F, 0x00] = (0x51, 0x4D) ∧ cs2 cfg [0x41, 0x42, 0x43, 0x44] = (0xFB, 0x2F) := by
  decide +kernel

/-- A padded message of more than one block: SHA-1 of 64 `a`s begins 0x0098 (FIPS 180-4's algorithm, log 15). -/
theorem test_reference_checksum_two_blocks : cs16 cfg (List.replicate 64 0x61) = 0x0098 := by decide +kernel

/-- Table 2.5, D17, D19, D20, D21, D3: which check decides. -/
theorem test_decode_check_order :
    decodeContainer cfg [0x8F, 0x00, 0x00, 0x00, 0x00, 0x02, 0x06, 0xDA, 0x41, 0x42] = .error (.checksumMismatch 0x06DA 0x06D9) ∧
      decodeContainer cfg [0x00, 0x04, 0xFF, 0xFF, 0xFF, 0xFF, 0x00, 0x00] = .error (.signatureError 0x00) ∧
      decodeContainer cfg [0x8F, 0x04, 0x00, 0x00, 0x00, 0x05, 0x00, 0x00] = .error (.unsupportedAlgorithm .compression 1) ∧
      decodeContainer cfg [0x8F, 0x00, 0x00, 0x00, 0x00, 0x05, 0x00, 0x00] = .error (.lengthMismatch 5 0) ∧
      decodeContainer cfg [0x8F, 0x00, 0x00, 0x00, 0x00] = .error (.shortContainer 5) := by decide +kernel

/-! ## The bus (table 2.9, `IN_CAP` 10) -/

theorem test_bus_errors :
    accessError cfg (memRead 0x00000004 .byte) = true ∧ accessError cfg (memRead 0x00000006 .word) = true ∧
      accessError cfg (memRead 0x00001000 .word) = true ∧ accessError cfg (memRead 0x40000008 .word) = true ∧
      accessError cfg (memRead 0x4000000A .byte) = true ∧ accessError cfg (memWrite 0x80000000 .byte 0) = true ∧
      accessError cfg (memRead 0x80000010 .word) = true := by decide +kernel

/-- 93_implementation_defined.md I13: a bad size. -/
theorem test_bus_bad_size : accessError cfg (memRead 0x40000000 .other) = true := by decide +kernel

theorem test_bus_okay :
    accessError cfg (memRead 0x00000000 .word) = false ∧ accessError cfg (memRead 0x0000002C .word) = false ∧
      accessError cfg (memRead 0x40000009 .byte) = false ∧ accessError cfg (memRead 0x80000011 .byte) = false := by
  decide +kernel

theorem test_in_buf_lanes :
    let t := busAccess cfg (memWrite 0x40000000 .word 0x44332211) State.reset
    busRead cfg (memRead 0x40000003 .byte) t = 0x44 ∧ busRead cfg (memRead 0x40000000 .word) t = 0x44332211 := by
  decide +kernel

theorem test_ctrl_reserved_dropped :
    (busAccess cfg (memWrite 0x00000008 .word 0xFFFFFFFF) State.reset).ctrlWord = 0x00000001 := by decide +kernel

theorem test_status_write_clears :
    (busAccess cfg (memWrite 0x00000004 .word 0x000000FF)
      { State.reset with done := true, haz := true, code := .checksumMismatch }).statusWord = 0x00000044 := by decide +kernel

/-- R38: the second word of the ENCODE result of "AB". -/
theorem test_out_buf_lanes : busRead cfg (memRead 0x80000004 .word) (ran 0x1 [0x41, 0x42]) = 0xD9060200 := by decide +kernel

/-- R96 on the 2.10 table's rows: IN_LEN unchanged, HAZ 1. -/
theorem test_busy_write_dropped :
    let t := busAccess cfg (memWrite 0x0000000C .word 5) (State.reset.accept cfg 0x1)
    t.inLen = 0 ∧ t.statusWord = 0x009 := by decide +kernel

/-! ## Steps -/

/-- The next step of a placed DECODE is that DECODE, with the event off the agenda. -/
theorem test_placed_word_is_next :
    (State.reset.withFetchWord 32 0x2).agenda = [.complete] ∧
      (State.reset.withFetchWord 32 0x2).pending.map (·.word) = some 0x2 := ⟨rfl, rfl⟩

/-- Reset is a step whatever is pending (2.10). -/
theorem test_reset_while_busy :
    let t := eventStep cfg .reset { State.accept cfg 0x1 { State.reset with haz := true, ie := true } with agenda := [.complete] }
    t.statusWord = 0 ∧ t.pending = none ∧ t.irq = false ∧ t.ie = false := by decide +kernel

/-- Program P1's loop: the host reads STATUS until BUSY is 0, here after one turn of the unit. -/
theorem test_script_wait :
    let h := scriptRun cfg (PseudoStmt.encode.expand ++ (PseudoStmt.wait 0 1).expand)
      [true, true, true, true, true, false, true, true, true] ⟨0, [], State.reset⟩
    h.pc = 4 ∧ lookupVar h.vars 1 = some 0x002 := by decide +kernel

/-! ## Witnesses: the hypotheses of the statements can be met together -/

/-- The state after the host has written these input bytes (at most 8) and IN_LEN and this command word has been accepted. -/
def held (w : Word) (bytes : ByteSeq) : State :=
  { loaded bytes with pending := some ⟨w, BitVec.ofNat 32 bytes.length, bytes⟩ }

/-- A state with this access next. -/
def facing (a : Access) (s : State) : State := { s with agenda := [.access a] }

/-- The container of the empty payload, with the given signature and versions bytes. -/
def emptyHeader (sig vers : Byte) : Header :=
  ⟨sig, vers, 0, 0, 0, 0, Config.unit.digestByte [] 0, Config.unit.digestByte [] 1⟩

theorem held_len (w : Word) (bytes : ByteSeq) (h : bytes.length ≤ 8) :
    ((held w bytes).input Config.unit).len.toNat ≤ Config.unit.inCap := by
  have := Config.inCap_bounds Config.unit
  show (BitVec.ofNat 32 bytes.length).toNat ≤ _
  rw [BitVec.toNat_ofNat, Nat.mod_eq_of_lt (by omega)]
  omega

theorem held_input (w : Word) (bytes : ByteSeq) :
    (held w bytes).input Config.unit = ⟨BitVec.ofNat 32 bytes.length, bytes⟩ := rfl

/-- A word access in REG or a byte access in IN_BUF's first 8 bytes passes. -/
theorem reg_ok (k : AccessKind) (o w : Word) (h : o.toNat < 0x1000) (h4 : o.toNat % 4 = 0) :
    accessError Config.unit ⟨k, o, .word, w⟩ = false := by
  have h3 : o.toNat + 3 < 0x1000 := by omega
  simp [accessError, regionOf, h, h3, h4]

theorem in_ok (k : AccessKind) (i : Nat) (sz : AccessSize) (w : Word) (h : i + 4 ≤ 8) (h4 : i % 4 = 0)
    (hz : sz ≠ .other) :
    accessError Config.unit ⟨k, BitVec.ofNat 32 (0x40000000 + i), sz, w⟩ = false := by
  have hc := Config.inCap_bounds Config.unit
  have ha : (BitVec.ofNat 32 (0x40000000 + i)).toNat = 0x40000000 + i := by rw [BitVec.toNat_ofNat]; omega
  have r : ∀ j, j < 8 → regionOf Config.unit (0x40000000 + j) = .inBuf := fun j hj =>
    (regionOf_inBuf_iff _ _).mpr (by unfold inBase; omega)
  have e1 := r i (by omega)
  have e2 : regionOf Config.unit (0x40000000 + i + 3) = .inBuf := r (i + 3) (by omega)
  have e3 : (0x40000000 + i) % 4 = 0 := by omega
  simp only [accessError, ha, e1, e2, e3]
  simp [hz]

theorem out_ok (i : Nat) (sz : AccessSize) (w : Word) (h : i + 4 ≤ 16) (h4 : i % 4 = 0) (hz : sz ≠ .other) :
    accessError Config.unit ⟨.read, BitVec.ofNat 32 (0x80000000 + i), sz, w⟩ = false := by
  have hc := Config.inCap_bounds Config.unit
  have ha : (BitVec.ofNat 32 (0x80000000 + i)).toNat = 0x80000000 + i := by rw [BitVec.toNat_ofNat]; omega
  have r : ∀ j, j < 16 → regionOf Config.unit (0x80000000 + j) = .outBuf := fun j hj =>
    (regionOf_outBuf_iff _ _).mpr (by unfold outBase Config.outCap; omega)
  have e1 := r i (by omega)
  have e2 : regionOf Config.unit (0x80000000 + i + 3) = .outBuf := r (i + 3) (by omega)
  have e3 : (0x80000000 + i) % 4 = 0 := by omega
  simp only [accessError, ha, e1, e2, e3]
  simp [hz]

/-- An unmapped address gets ERROR. -/
theorem unmapped_error (k : AccessKind) (sz : AccessSize) (w : Word) : accessError Config.unit ⟨k, 0x1000, sz, w⟩ = true := by
  have : regionOf Config.unit 0x1000 = .unmapped := (regionOf_unmapped_iff _ _).mpr (by unfold inBase outBase; omega)
  simp [accessError, this]

theorem test_witness_StepRunsDecodedCommand :
    nextEvent (held 0x1 [0x41]) = (.complete, held 0x1 [0x41]) ∧ (held 0x1 [0x41]).pending = some ⟨0x1, 1, [0x41]⟩ ∧
      decodeWord 0x1 = .ok .encode := ⟨rfl, rfl, by decide⟩

theorem test_witness_FetchedWordRunsNext : decodeTableWord 32 0x3 = some .checksum := by decide

/-- ENCODE and CHECKSUM, on the empty input and on a full buffer. -/
theorem test_witness_EncodeWritesContainer :
    (∀ s, s = held 0x1 [] ∨ s = { State.reset with inLen := BitVec.ofNat 32 Config.unit.inCap } →
      (s.input Config.unit).len.toNat ≤ Config.unit.inCap ∧
      (s.input Config.unit).data.length = (s.input Config.unit).len.toNat) := by
  have hc := Config.inCap_bounds Config.unit
  have hm : Config.unit.inCap % 4294967296 = Config.unit.inCap := Nat.mod_eq_of_lt (by omega)
  rintro s (rfl | rfl)
  · exact ⟨held_len _ _ (by decide), rfl⟩
  · constructor <;> simp [State.input, State.sample, State.inPrefix, State.reset, hm]

theorem test_witness_ChecksumWritesCksum :
    (State.reset.input Config.unit).len.toNat ≤ Config.unit.inCap := by
  simp [State.input, State.sample, State.reset]

theorem test_witness_DecodeExtractsPayload :
    ((held 0x2 (emptyHeader 0x8F 0xF0).bytes).input Config.unit).len.toNat ≤ Config.unit.inCap ∧
      ((held 0x2 (emptyHeader 0x8F 0xF0).bytes).input Config.unit).data = (emptyHeader 0x8F 0xF0).bytes ++ [] ∧
      (emptyHeader 0x8F 0xF0).ValidFor Config.unit [] :=
  ⟨held_len _ _ (by simp), rfl, ⟨fun _ => rfl, by rfl, by rfl, by rfl, rfl, rfl⟩⟩

/-- The largest IN_LEN, and `IN_CAP + 1`. -/
theorem test_witness_OversizedInLenFailsEveryCommand :
    Config.unit.inCap < (State.input Config.unit { State.reset with inLen := 0xFFFFFFFF }).len.toNat ∧
      Config.unit.inCap <
        (State.input Config.unit { State.reset with inLen := BitVec.ofNat 32 (Config.unit.inCap + 1) }).len.toNat := by
  have hc := Config.inCap_bounds Config.unit
  have hm : (Config.unit.inCap + 1) % 4294967296 = Config.unit.inCap + 1 := Nat.mod_eq_of_lt (by omega)
  constructor <;> simp [State.input, State.sample, State.reset, hm]
  omega

/-- No byte, and seven. -/
theorem test_witness_DecodeShortContainerFails :
    ∀ b, b = [] ∨ b = List.replicate 7 (0x8F : Byte) →
      ((held 0x2 b).input Config.unit).len.toNat ≤ Config.unit.inCap ∧ ((held 0x2 b).input Config.unit).data.length < 8 := by
  rintro b (rfl | rfl) <;> exact ⟨held_len _ _ (by decide), by decide⟩

theorem test_witness_DecodeWrongSignature :
    ((held 0x2 (emptyHeader 0x8E 0).bytes).input Config.unit).len.toNat ≤ Config.unit.inCap ∧
      ((held 0x2 (emptyHeader 0x8E 0).bytes).input Config.unit).data = (emptyHeader 0x8E 0).bytes ++ [] ∧
      (emptyHeader 0x8E 0).sig ≠ 0x8F ∧
      (held 0x2 (emptyHeader 0x8F 0).bytes).input Config.unit =
        ⟨((held 0x2 (emptyHeader 0x8E 0).bytes).input Config.unit).len,
          Header.bytes { emptyHeader 0x8E 0 with sig := 0x8F } ++ []⟩ :=
  ⟨held_len _ _ (by simp), rfl, by decide, rfl⟩

theorem test_witness_DecodeUnsupportedCompression :
    ((held 0x2 (emptyHeader 0x8F 0x05).bytes).input Config.unit).len.toNat ≤ Config.unit.inCap ∧
      ((held 0x2 (emptyHeader 0x8F 0x05).bytes).input Config.unit).data = (emptyHeader 0x8F 0x05).bytes ++ [] ∧
      (Config.unit.sigCheck = true → (emptyHeader 0x8F 0x05).sig = 0x8F) ∧
      (emptyHeader 0x8F 0x05).vers.extractLsb' 2 2 ≠ 0 :=
  ⟨held_len _ _ (by simp), rfl, fun _ => rfl, by simp [emptyHeader]⟩

theorem test_witness_DecodeUnsupportedNoiseCancellation :
    ((held 0x2 (emptyHeader 0x8F 0x03).bytes).input Config.unit).len.toNat ≤ Config.unit.inCap ∧
      ((held 0x2 (emptyHeader 0x8F 0x03).bytes).input Config.unit).data = (emptyHeader 0x8F 0x03).bytes ++ [] ∧
      (Config.unit.sigCheck = true → (emptyHeader 0x8F 0x03).sig = 0x8F) ∧
      (emptyHeader 0x8F 0x03).vers.extractLsb' 2 2 = 0 ∧ (emptyHeader 0x8F 0x03).vers.extractLsb' 0 2 ≠ 0 :=
  ⟨held_len _ _ (by simp), rfl, fun _ => rfl, by simp [emptyHeader], by simp [emptyHeader]⟩

/-- One byte declared, none there. -/
theorem test_witness_DecodeLengthMismatchFails :
    let h : Header := { emptyHeader 0x8F 0 with len3 := 1 }
    ((held 0x2 h.bytes).input Config.unit).len.toNat ≤ Config.unit.inCap ∧
      ((held 0x2 h.bytes).input Config.unit).data = h.bytes ++ [] ∧ (Config.unit.sigCheck = true → h.sig = 0x8F) ∧
      h.vers.extractLsb' 0 4 = 0 ∧ h.declared ≠ ([] : ByteSeq).length :=
  ⟨held_len _ _ (by simp), rfl, fun _ => rfl, by rfl, by simp [Header.declared, emptyHeader]⟩

/-- The right checksum with one bit of its second byte flipped. -/
theorem test_witness_DecodeChecksumMismatchFails :
    let h : Header := { emptyHeader 0x8F 0 with ck1 := Config.unit.digestByte [] 1 ^^^ 1 }
    ((held 0x2 h.bytes).input Config.unit).len.toNat ≤ Config.unit.inCap ∧
      ((held 0x2 h.bytes).input Config.unit).data = h.bytes ++ [] ∧ (Config.unit.sigCheck = true → h.sig = 0x8F) ∧
      h.vers.extractLsb' 0 4 = 0 ∧ h.declared = ([] : ByteSeq).length ∧
      Config.unit.digestByte [] 0 ++ Config.unit.digestByte [] 1 ≠ h.ck0 ++ h.ck1 := by
  refine ⟨held_len _ _ (by simp), rfl, fun _ => rfl, by rfl, by rfl, ?_⟩
  show Config.unit.digestByte [] 0 ++ Config.unit.digestByte [] 1 ≠
    Config.unit.digestByte [] 0 ++ (Config.unit.digestByte [] 1 ^^^ 1)
  generalize Config.unit.digestByte [] 0 = a, Config.unit.digestByte [] 1 = b
  intro h
  have hn := congrArg BitVec.toNat h
  rw [append_byte_toNat, append_byte_toNat] at hn
  have hb : b = b ^^^ 1 := BitVec.eq_of_toNat_eq (by omega)
  revert hb
  clear h hn
  revert b
  decide +kernel

/-- `OP` 0, 4 and a reserved bit, and an IN_LEN that R80 would refuse too. -/
theorem test_witness_IllegalWordCompletesWithCode7 :
    ∀ w : Word, w = 0x0 ∨ w = 0x4 ∨ w = 0x11 →
      let s := { held w [] with pending := some ⟨w, 0xFFFFFFFF, []⟩ }
      nextEvent s = (.complete, s) ∧ s.pending = some ⟨w, 0xFFFFFFFF, []⟩ ∧ w ≠ 0x1 ∧ w ≠ 0x2 ∧ w ≠ 0x3 := by
  rintro w (rfl | rfl | rfl) <;> exact ⟨rfl, rfl, by decide⟩

/-- Each branch: an illegal word, IN_LEN over `IN_CAP`, and each command. -/
theorem test_witness_CompletionChecksInOrder :
    (∀ w : Word, nextEvent (held w []) = (.complete, held w []) ∧ (held w []).pending = some ⟨w, 0, []⟩) ∧
      Config.unit.inCap < (0xFFFFFFFF : Word).toNat ∧ ¬ Config.unit.inCap < (0 : Word).toNat := by
  have hc := Config.inCap_bounds Config.unit
  refine ⟨fun w => ⟨rfl, rfl⟩, ?_, by simp⟩
  show _ < 4294967295
  omega

/-- Two states that differ in HAZ and in a result register. -/
theorem test_witness_ResultsDependOnlyOnInput :
    (held 0x1 [0x41]).input Config.unit = State.input Config.unit { held 0x1 [0x41] with haz := true, errAct := 7 } ∧
      held 0x1 [0x41] ≠ { held 0x1 [0x41] with haz := true, errAct := 7 } := ⟨rfl, by simp [held, loaded, State.reset]⟩

/-- ENCODE of the empty payload, and its container as input. -/
theorem test_witness_EncodeThenDecodeReturnsPayload :
    let s := held 0x1 []
    ∃ t u : State, (s.input Config.unit).len.toNat ≤ Config.unit.inCap ∧
      (s.input Config.unit).data.length = (s.input Config.unit).len.toNat ∧ exec .encode s = .next t ∧
      (u.input Config.unit).len = t.outLen ∧ t.outLen.toNat ≤ Config.unit.inCap ∧
      ∀ j, (u.input Config.unit).data[j]? = t.outByte j := by
  have hc := Config.inCap_bounds Config.unit
  have he : encodeResults Config.unit ⟨0, []⟩ = .success (cs16 Config.unit []) none (.bytes (encodeHeader Config.unit [] ++ [])) := by
    simp [encodeResults, checkInLen, encodeContainer, maxPayload]
  refine ⟨_, held 0x2 (encodeHeader Config.unit []), held_len _ _ (by decide), rfl, rfl, ?_, ?_, ?_⟩
  all_goals rw [held_input 0x1 []]
  all_goals rw [show encodeResults Config.unit ⟨BitVec.ofNat 32 ([] : ByteSeq).length, []⟩ = _ from he]
  · rfl
  · show 8 ≤ _
    omega
  · intro j
    have e : ∀ k, State.outByte (State.complete
        (.success (cs16 Config.unit []) none (.bytes (encodeHeader Config.unit [] ++ []))) (held 0x1 [])) k =
        if k < 8 then (encodeHeader Config.unit [])[k]? else none := by
      intro k
      simp only [State.outByte, State.complete, State.busy, Results.success, OutResult.memory, OutResult.length,
        Memory.read_ofBytes_zero, List.append_nil, encodeHeader_length]
      rfl
    rw [e]
    show (encodeHeader Config.unit [])[j]? = _
    split_ifs with h
    · rfl
    · exact List.getElem?_eq_none (by simpa using h)

/-- The longest payload whose length fits, and the shortest whose length does not. -/
theorem test_witness_EncodedHeaderShape :
    (List.replicate (2 ^ 32 - 1) (0 : Byte)).length ≤ 2 ^ 32 - 1 ∧ 2 ^ 32 - 1 < (List.replicate (2 ^ 32) (0 : Byte)).length := by
  simp only [List.length_replicate]; decide

theorem test_witness_EncodeSucceedsExactlyWhenLengthFits :
    (List.replicate (2 ^ 32 - 1) (0 : Byte)).length ≤ 2 ^ 32 - 1 ∧ 2 ^ 32 - 1 < (List.replicate (2 ^ 32) (0 : Byte)).length :=
  test_witness_EncodedHeaderShape

/-- Two payloads of one length and one checksum (table 2.3's collision). -/
theorem test_witness_EncodedHeaderShape_collision :
    ([0x43, 0xE5] : ByteSeq).length = ([0x44, 0x79] : ByteSeq).length ∧ cs2 cfg [0x43, 0xE5] = cs2 cfg [0x44, 0x79] := by
  decide +kernel

theorem test_witness_ContainerRoundTrip : (List.replicate (2 ^ 32 - 1) (0 : Byte)).length ≤ 2 ^ 32 - 1 :=
  test_witness_EncodedHeaderShape.1

/-- The container of "AB" under the reference configuration decodes. -/
theorem test_witness_ReencodingReproducesContainer :
    decodeContainer cfg (Header.bytes ⟨0x8F, 0, 0, 0, 0, 2, 0x06, 0xD9⟩ ++ [0x41, 0x42]) = .ok [0x41, 0x42] := by decide +kernel

theorem test_witness_VersionNibbleIsIgnored : (0xF0 : Byte).extractLsb' 0 4 = (emptyHeader 0x8F 0).vers.extractLsb' 0 4 := by rfl

theorem test_witness_SignatureCheckGatesDecode : (emptyHeader 0x00 0).sig ≠ 0x8F := by decide

/-- S3: byte 5 changed to 03. -/
theorem test_witness_LengthFieldTamperDetected :
    decodeContainer cfg (Header.bytes ⟨0x8F, 0, 0, 0, 0, 2, 0x06, 0xD9⟩ ++ [0x41, 0x42]) = .ok [0x41, 0x42] ∧
      ((0, 0, 0, 3) : Byte × Byte × Byte × Byte) ≠ (0, 0, 0, 2) := by decide +kernel

/-- A detected change (table 2.7) and an undetected one (D18). -/
theorem test_witness_PayloadTamperDetectedByChecksum :
    decodeContainer cfg (Header.bytes ⟨0x8F, 0, 0, 0, 0, 2, 0xBA, 0xF7⟩ ++ [0x43, 0xE5]) = .ok [0x43, 0xE5] ∧
      cs2 cfg [0x40, 0x42] ≠ cs2 cfg [0x43, 0xE5] ∧ cs2 cfg [0x44, 0x79] = cs2 cfg [0x43, 0xE5] := by decide +kernel

theorem test_witness_ErrorAccessChangesNothing :
    let s := facing ⟨.write, 0x1000, .word, 1⟩ (held 0x1 [])
    nextEvent s = (.access ⟨.write, 0x1000, .word, 1⟩, { s with agenda := [] }) ∧
      accessError Config.unit ⟨.write, 0x1000, .word, 1⟩ = true := ⟨rfl, unmapped_error _ _ _⟩

/-- Each register, and the first and the last reserved offset. -/
theorem test_witness_IdleRegisterReads :
    ∀ o ∈ ([0x000, 0x004, 0x008, 0x00C, 0x010, 0x014, 0x018, 0x01C, 0x020, 0x024, 0x028, 0x02C, 0xFFC] : List Word),
      let s := facing ⟨.read, o, .word, 0⟩ State.reset
      nextEvent s = (.access ⟨.read, o, .word, 0⟩, { s with agenda := [] }) ∧ s.pending = none ∧ o.toNat < 0x1000 ∧
        o.toNat % 4 = 0 := by
  have h : ∀ o ∈ ([0x000, 0x004, 0x008, 0x00C, 0x010, 0x014, 0x018, 0x01C, 0x020, 0x024, 0x028, 0x02C, 0xFFC] : List Word),
      o.toNat < 0x1000 ∧ o.toNat % 4 = 0 := by simp
  exact fun o ho => ⟨rfl, rfl, h o ho⟩

/-- Each result register, and a byte and a word of OUT_BUF. -/
theorem test_witness_BusyResultReadsAreDraws :
    (∀ o ∈ ([0x010, 0x014, 0x018, 0x01C, 0x020, 0x024, 0x028] : List Word),
      let s := facing ⟨.read, o, .word, 0⟩ (held 0x1 [])
      nextEvent s = (.access ⟨.read, o, .word, 0⟩, { s with agenda := [] }) ∧ s.pending ≠ none ∧
        accessError Config.unit ⟨.read, o, .word, 0⟩ = false) ∧
    (∀ sz ∈ [AccessSize.byte, .word],
      let s := facing ⟨.read, 0x80000000, sz, 0⟩ (held 0x1 [])
      nextEvent s = (.access ⟨.read, 0x80000000, sz, 0⟩, { s with agenda := [] }) ∧ s.pending ≠ none ∧
        accessError Config.unit ⟨.read, 0x80000000, sz, 0⟩ = false) := by
  have h : ∀ o ∈ ([0x010, 0x014, 0x018, 0x01C, 0x020, 0x024, 0x028] : List Word), o.toNat < 0x1000 ∧ o.toNat % 4 = 0 := by
    simp
  have hz : ∀ sz ∈ [AccessSize.byte, .word], sz ≠ .other := by decide
  exact ⟨fun o ho => ⟨rfl, by simp [facing, held], reg_ok _ _ _ (h o ho).1 (h o ho).2⟩,
    fun sz hs => ⟨rfl, by simp [facing, held], out_ok 0 sz 0 (by decide) (by decide) (hz sz hs)⟩⟩

/-- Reads of CMD, STATUS, CTRL, IN_LEN and the first and last reserved offset; writes to STATUS, CTRL, the first read-only register
and the last reserved offset, all while BUSY. -/
theorem test_witness_SafeAccessesIgnoreBusy :
    ∀ k : AccessKind, ∀ o ∈ ([0x000, 0x004, 0x008, 0x00C, 0x010, 0x02C, 0xFFC] : List Word),
      let a : Access := ⟨k, o, .word, 0xA⟩
      let s := facing a (held 0x1 [])
      nextEvent s = (.access a, { s with agenda := [] }) ∧ s.pending ≠ none ∧ a.addr.toNat < 0x1000 ∧ a.addr.toNat % 4 = 0 := by
  have h : ∀ o ∈ ([0x000, 0x004, 0x008, 0x00C, 0x010, 0x02C, 0xFFC] : List Word), o.toNat < 0x1000 ∧ o.toNat % 4 = 0 := by
    simp
  exact fun k o ho => ⟨rfl, by simp [facing, held], h o ho⟩

theorem test_witness_CmdWriteIsAccepted :
    let s := facing ⟨.write, 0x000, .word, 0xFFFFFFFF⟩ State.reset
    nextEvent s = (.access ⟨.write, 0x000, .word, 0xFFFFFFFF⟩, { s with agenda := [] }) ∧ s.pending = none := ⟨rfl, rfl⟩

/-- CMD, IN_LEN and IN_BUF. -/
theorem test_witness_BusyWritesAreDropped :
    ∀ a : Access, a = ⟨.write, 0x000, .word, 2⟩ ∨ a = ⟨.write, 0x00C, .word, 5⟩ ∨ a = ⟨.write, 0x40000000, .byte, 0xFF⟩ →
      let s := facing a (held 0x1 [])
      nextEvent s = (.access a, { s with agenda := [] }) ∧ s.pending ≠ none ∧ a.kind = .write ∧
        accessError Config.unit a = false ∧ (a.addr = 0x000 ∨ a.addr = 0x00C ∨ 0x40000000 ≤ a.addr.toNat) := by
  rintro a (rfl | rfl | rfl)
  · exact ⟨rfl, by simp [facing, held], rfl, reg_ok _ _ _ (by decide) (by decide), by decide⟩
  · exact ⟨rfl, by simp [facing, held], rfl, reg_ok _ _ _ (by decide) (by decide), by decide⟩
  · exact ⟨rfl, by simp [facing, held], rfl, in_ok .write 0 .byte 0xFF (by decide) (by decide) (by decide), by decide⟩

theorem test_witness_IdleInLenWriteStores :
    let s := facing ⟨.write, 0x00C, .word, 0xFFFFFFFF⟩ State.reset
    nextEvent s = (.access ⟨.write, 0x00C, .word, 0xFFFFFFFF⟩, { s with agenda := [] }) ∧ s.pending = none := ⟨rfl, rfl⟩

/-- A byte at index 0 and a word at index 4. -/
theorem test_witness_InBufWriteStoresLanes :
    ∀ a : Access, a = ⟨.write, 0x40000000, .byte, 0x41⟩ ∨ a = ⟨.write, 0x40000004, .word, 0x44332211⟩ →
      let s := facing a State.reset
      nextEvent s = (.access a, { s with agenda := [] }) ∧ s.pending = none ∧ a.kind = .write ∧
        accessError Config.unit a = false ∧ 0x40000000 ≤ a.addr.toNat := by
  rintro a (rfl | rfl)
  · exact ⟨rfl, rfl, rfl, in_ok .write 0 .byte 0x41 (by decide) (by decide) (by decide), by decide⟩
  · exact ⟨rfl, rfl, rfl, in_ok .write 4 .word 0x44332211 (by decide) (by decide) (by decide), by decide⟩

/-- While BUSY. -/
theorem test_witness_InBufReadReturnsLanes :
    ∀ a : Access, a = ⟨.read, 0x40000000, .byte, 0⟩ ∨ a = ⟨.read, 0x40000004, .word, 0⟩ →
      let s := facing a (held 0x1 [])
      nextEvent s = (.access a, { s with agenda := [] }) ∧ a.kind = .read ∧ accessError Config.unit a = false ∧
        0x40000000 ≤ a.addr.toNat ∧ a.addr.toNat < 0x80000000 := by
  rintro a (rfl | rfl)
  · exact ⟨rfl, rfl, in_ok .read 0 .byte 0 (by decide) (by decide) (by decide), by decide, by decide⟩
  · exact ⟨rfl, rfl, in_ok .read 4 .word 0 (by decide) (by decide) (by decide), by decide, by decide⟩

/-- A word read of which one byte is below OUT_LEN, and that byte. -/
theorem test_witness_OutBufReadReturnsResult :
    let s := facing ⟨.read, 0x80000000, .word, 0⟩ { State.reset with outLen := 1, outBuf := [(0, 0x41)] }
    nextEvent s = (.access ⟨.read, 0x80000000, .word, 0⟩, { s with agenda := [] }) ∧ s.pending = none ∧
      accessError Config.unit ⟨.read, 0x80000000, .word, 0⟩ = false ∧ 0 < s.outLen.toNat ∧
      Memory.read s.outBuf 0 = some 0x41 :=
  ⟨rfl, rfl, out_ok 0 .word 0 (by decide) (by decide) (by decide), by decide, rfl⟩

/-- A defined OUT_BUF byte read twice while idle, and STATUS and an IN_BUF byte read twice while BUSY. -/
theorem test_witness_RepeatedReadsAgree :
    (let a : Access := ⟨.read, 0x80000000, .byte, 0⟩
     let s := { State.reset with outLen := 1, outBuf := [(0, 0x41)], agenda := [.access a, .access a] }
     s.pending = none ∧ accessError Config.unit a = false ∧ (s.outByte 0).isSome = true ∧
       ∃ u, step s = .next u) ∧
    (let a : Access := ⟨.read, 0x004, .word, 0⟩
     let s := { held 0x1 [] with agenda := [.access a, .access a] }
     a.addr.toNat < 0x010 ∧ ¬ 0x80000000 ≤ a.addr.toNat ∧ ∃ u, step s = .next u) ∧
    (let a : Access := ⟨.read, 0x40000000, .byte, 0⟩
     let s := { held 0x1 [] with agenda := [.access a, .access a] }
     0x02C ≤ a.addr.toNat ∧ a.addr.toNat < 0x80000000 ∧ ∃ u, step s = .next u) :=
  ⟨⟨rfl, out_ok 0 .byte 0 (by decide) (by decide) (by decide), rfl, _, rfl⟩, ⟨by decide, by decide, _, rfl⟩,
    by decide, by decide, _, rfl⟩

theorem test_witness_ResetStepLeavesResetValues :
    let s := { held 0x1 [0x41] with agenda := [.reset] }
    nextEvent s = (.reset, { s with agenda := [] }) := rfl

/-- IRQ rises at a completion and at a CTRL write. -/
theorem test_witness_IrqChangesOnlyAsRuled_rise :
    (let s := { held 0x0 [] with ie := true }
     ∃ t, step s = .next t ∧ s.irq = false ∧ t.irq = true) ∧
    (let s := facing ⟨.write, 0x008, .word, 1⟩ { State.reset with done := true }
     ∃ t, step s = .next t ∧ s.irq = false ∧ t.irq = true) := by
  refine ⟨⟨_, rfl, rfl, rfl⟩, _, rfl, rfl, ?_⟩
  show State.irq (busAccess _ _ _) = true
  rw [busAccess, reg_ok _ _ _ (by decide) (by decide)]; rfl

/-- IRQ falls at a STATUS write, at an accept, at a CTRL write and at reset. -/
theorem test_witness_IrqChangesOnlyAsRuled_fall :
    ∀ e : Event, e = .access ⟨.write, 0x004, .word, 2⟩ ∨ e = .access ⟨.write, 0x000, .word, 1⟩ ∨
      e = .access ⟨.write, 0x008, .word, 0⟩ ∨ e = .reset →
      let s := { State.reset with done := true, ie := true, agenda := [e] }
      ∃ t, step s = .next t ∧ s.irq = true ∧ t.irq = false := by
  rintro e (rfl | rfl | rfl | rfl)
  all_goals refine ⟨_, rfl, rfl, ?_⟩
  · show State.irq (busAccess _ _ _) = false
    rw [busAccess, reg_ok _ _ _ (by decide) (by decide)]; rfl
  · show State.irq (busAccess _ _ _) = false
    rw [busAccess, reg_ok _ _ _ (by decide) (by decide)]; rfl
  · show State.irq (busAccess _ _ _) = false
    rw [busAccess, reg_ok _ _ _ (by decide) (by decide)]; rfl
  · rfl

/-- HAZ rises at a dropped write, and falls at a STATUS write and at reset. -/
theorem test_witness_HazIsSticky :
    (∃ t, step (facing ⟨.write, 0x00C, .word, 5⟩ (held 0x1 [])) = .next t ∧ t.haz = true) ∧
      (∃ t, step (facing ⟨.write, 0x004, .word, 8⟩ { State.reset with haz := true }) = .next t ∧ t.haz = false) ∧
      (∃ t, step { State.reset with haz := true, agenda := [.reset] } = .next t ∧ t.haz = false) := by
  refine ⟨⟨_, rfl, ?_⟩, ⟨_, rfl, ?_⟩, _, rfl, rfl⟩
  · show State.haz (busAccess _ _ _) = true
    rw [busAccess, reg_ok _ _ _ (by decide) (by decide)]; rfl
  · show State.haz (busAccess _ _ _) = false
    rw [busAccess, reg_ok _ _ _ (by decide) (by decide)]; rfl

/-- A read, which keeps CODE and FIELD, and an accept, which clears them. -/
theorem test_witness_AccessesKeepResults :
    ∀ a : Access, a = ⟨.read, 0x004, .word, 0⟩ ∨ a = ⟨.write, 0x000, .word, 1⟩ →
      let s := facing a { State.reset with code := .short, done := true }
      nextEvent s = (.access a, { s with agenda := [] }) ∧ ∃ t, step s = .next t := by
  rintro a (rfl | rfl) <;> exact ⟨rfl, _, rfl⟩

theorem test_witness_PendingInputIsStable :
    let s := facing ⟨.write, 0x40000000, .byte, 0⟩ (held 0x1 [0x41])
    nextEvent s = (.access ⟨.write, 0x40000000, .byte, 0⟩, { s with agenda := [] }) ∧ s.pending = some ⟨0x1, 1, [0x41]⟩ ∧
      ∃ t, step s = .next t := ⟨rfl, rfl, _, rfl⟩

theorem test_witness_PendingCommandCompletes :
    let s := { held 0x1 [0x41] with agenda := [.access ⟨.read, 0x004, .word, 0⟩, .complete] }
    s.pending = some ⟨0x1, 1, [0x41]⟩ ∧ s.noReset := ⟨rfl, by simp [State.noReset]⟩

/-- The reset state meets the invariant and takes a step; so does a BUSY state. -/
theorem test_witness_StepKeepsInvariant :
    State.reset.Inv Config.unit ∧ (∃ t, step State.reset = .next t) ∧
      (State.reset.accept Config.unit 0x1).Inv Config.unit ∧ ∃ t, step (State.reset.accept Config.unit 0x1) = .next t := by
  refine ⟨?_, ⟨_, rfl⟩, ?_, _, step_eq _⟩
  · constructor <;> simp [State.reset, State.busy] <;> rfl
  · constructor <;> simp [State.accept, State.sample, State.reset, State.busy] <;> rfl

/-- A failed completion's STATUS, and a BUSY one. -/
theorem test_witness_StatusShowsOnlyReachableCodes :
    ({ State.reset with done := true, code := .unsupportedAlgo, field := true } : State).Inv Config.unit ∧
      (State.reset.accept Config.unit 0x1).Inv Config.unit := by
  refine ⟨?_, test_witness_StepKeepsInvariant.2.2.1⟩
  constructor <;> simp [State.reset, State.busy] <;> rfl

/-- Eight bytes at index 0, in any configuration. -/
theorem test_witness_PutStatementFillsInput :
    State.reset.pending = none ∧ 0 + (List.replicate 8 (0x41 : Byte)).length ≤ Config.unit.inCap :=
  ⟨rfl, by simpa using (Config.inCap_bounds Config.unit).1⟩

end Sys2Proof.Tests
end

section
/-! PROOFS. Support for every family: the event a step takes, and which accesses proceed. -/

namespace Sys2Proof.Machine

/-- The state a step's event meets is the old one with the event taken off the agenda. -/
theorem nextEvent_snd (s : State) : (nextEvent s).2 = { s with agenda := s.agenda.tail } := by
  cases hs : s.agenda with
  | nil => simp only [nextEvent, hs, List.tail_nil]; rw [← hs]
  | cons e rest => simp only [nextEvent, hs, List.tail_cons]

/-- When an access is next, the step is that access on the state with the event taken off. -/
theorem step_of_access {s u : State} {a : Access} (h : nextEvent s = (.access a, u)) :
    step s = .next (busAccess Config.unit a u) ∧ u = { s with agenda := s.agenda.tail } := by
  have hu := nextEvent_snd s
  rw [h] at hu
  exact ⟨by rw [step_eq, h]; rfl, hu⟩

/-- A unit that is not BUSY has nothing pending. -/
theorem State.pending_eq_none {s : State} (h : s.busy = false) : s.pending = none := by
  simpa [State.busy] using h

/-- The tests of R32 that an access which proceeds has passed, each said positively. -/
theorem accessError_eq_false_iff (c : Config) (a : Access) :
    accessError c a = false ↔
      a.size ≠ .other ∧ regionOf c a.addr.toNat ≠ .unmapped ∧
        (a.size = .word → a.addr.toNat % 4 = 0 ∧ regionOf c (a.addr.toNat + 3) = regionOf c a.addr.toNat) ∧
        (a.size = .byte → regionOf c a.addr.toNat ≠ .reg) ∧ (a.kind = .write → regionOf c a.addr.toNat ≠ .outBuf) := by
  cases hs : a.size <;> simp [accessError, hs, and_assoc]

/-- The bytes of an IN_BUF access that proceeds lie inside InBuf (20_memory.md R32). -/
theorem inBuf_lanes_fit {c : Config} {a : Access} (h : accessError c a = false) (hr : regionOf c a.addr.toNat = .inBuf) :
    a.addr.toNat - inBase + (writeLanes a.size a.wdata).length ≤ c.inCap := by
  obtain ⟨-, -, hword, -, -⟩ := (accessError_eq_false_iff c a).mp h
  have hlo := (regionOf_inBuf_iff c _).mp hr
  cases hs : a.size with
  | byte => simp only [writeLanes, List.length_cons, List.length_nil]; omega
  | word =>
    have hhi := (regionOf_inBuf_iff c _).mp ((hword hs).2.trans hr)
    simp only [writeLanes, List.length_cons, List.length_nil]
    omega
  | other => simp only [writeLanes, List.length_nil]; omega

/-- An access of an aligned word in REG proceeds (20_memory.md R32). -/
theorem accessError_reg_word (c : Config) (k : AccessKind) (o w : Word) (ho : o.toNat < 0x1000) (h4 : o.toNat % 4 = 0) :
    accessError c ⟨k, o, .word, w⟩ = false := by
  have hlast : o.toNat + 3 < 0x1000 := by omega
  simp [accessError, regionOf, ho, hlast, h4]

end Sys2Proof.Machine
end

section
/-! PROOFS. The invariant `State.Inv`: what a completion may record, and what each named update of the state does to it (10_state.md R24
to R26, 60_exceptions.md R79 to R83). -/

namespace Sys2Proof.Machine

/-! ### What a completion may record -/

/-- The results a completion can have (60_exceptions.md R79, R81, R82): a success whose output fits OutBuf, or a failure whose error is
not code 1. -/
inductive Results.Legal (c : Config) : Results → Prop
  /-- A command that succeeds. -/
  | success (cksum : Half) (header : Option Header) (out : OutResult) (fits : ∀ r, out = .bytes r → r.length ≤ c.outCap) :
      Legal c (.success cksum header out)
  /-- A command that fails. -/
  | failure (e : CodecError) (cksum : Half) (header : Option Header) (reachable : e.code ≠ .encoding) :
      Legal c (.failure e cksum header)

theorem illegalResults_legal (c : Config) (w : Word) : (illegalResults w).Legal c := .failure _ _ _ (by simp [CodecError.code])

/-- The length check of R80 adds only a failure with code 8. -/
theorem checkInLen_legal {c : Config} (x : Input) {r : Results} (h : r.Legal c) : (checkInLen c x r).Legal c := by
  unfold checkInLen
  split
  · exact .failure _ _ _ (by simp [CodecError.code])
  · exact h

/-- `decode` gives back no more bytes than it was given. -/
theorem decodeContainer_ok_length {c : Config} {bytes p : ByteSeq} (h : decodeContainer c bytes = .ok p) :
    p.length ≤ bytes.length := by
  rcases Nat.lt_or_ge bytes.length 8 with hl | hl
  · simp [decodeContainer_short c bytes hl] at h
  · obtain ⟨hd, cand, rfl⟩ := header_of_length bytes hl
    rw [decodeContainer_bytes] at h
    split_ifs at h
    cases h
    simp

/-- `decode` never raises code 1. -/
theorem decodeContainer_error_code {c : Config} {bytes : ByteSeq} {e : CodecError} (h : decodeContainer c bytes = .error e) :
    e.code ≠ .encoding := by
  rcases Nat.lt_or_ge bytes.length 8 with hl | hl
  · rw [decodeContainer_short c bytes hl] at h
    cases h
    simp [CodecError.code]
  · obtain ⟨hd, cand, rfl⟩ := header_of_length bytes hl
    rw [decodeContainer_bytes] at h
    split_ifs at h <;> cases h <;> simp [CodecError.code]

/-- A command on an input that fits InBuf has legal results: ENCODE's length check cannot fail there (60_exceptions.md R79). -/
theorem commandResults_legal (c : Config) (i : Instr) (x : Input) (hx : x.data.length ≤ c.inCap) :
    (commandResults c i x).Legal c := by
  cases i with
  | checksum => exact checkInLen_legal x (.success _ _ _ (by simp))
  | encode =>
    have hfits : x.data.length ≤ maxPayload := by
      have hcap := Config.inCap_bounds c
      unfold maxPayload
      omega
    refine checkInLen_legal x ?_
    simp only [encodeContainer_ok c x.data hfits]
    refine .success _ _ _ fun r hr => ?_
    cases hr
    simp only [List.length_append, encodeHeader_length, Config.outCap]
    omega
  | decode =>
    refine checkInLen_legal x ?_
    cases hd : decodeContainer c x.data with
    | error e => exact .failure _ _ _ (decodeContainer_error_code hd)
    | ok p =>
      refine .success _ _ _ fun r hr => ?_
      cases hr
      have hlen := decodeContainer_ok_length hd
      unfold Config.outCap
      omega

/-- A pending command whose snapshot fits InBuf completes with legal results, whatever its word. -/
theorem completion_legal (c : Config) (p : Pending) (hp : p.data.length ≤ c.inCap) : (completion c p).Legal c := by
  cases hd : decodeWord p.word with
  | ok i => rw [completion_ok c p i hd]; exact commandResults_legal c i _ hp
  | error e => rw [completion_error c p e hd]; exact illegalResults_legal c p.word

/-- A completion leaves every byte of OutBuf below the new OUT_LEN defined. -/
theorem OutResult.memory_defined (o : OutResult) (m : Memory) (j : Nat) (hj : j < o.length.toNat) :
    (Memory.read (o.memory m) j).isSome = true := by
  cases o with
  | bytes r =>
    have hlen : j < r.length := Nat.lt_of_lt_of_le hj (Nat.mod_le r.length (2 ^ 32))
    simp [OutResult.memory, hlen]
  | kept => exact absurd hj (Nat.not_lt_zero j)
  | undefined => exact absurd hj (Nat.not_lt_zero j)

namespace Results.Legal

variable {c : Config} {r : Results}

/-- FIELD is set only by code 2 (10_state.md R13). -/
theorem field_code (h : r.Legal c) (hf : r.field = true) : r.code = .unsupportedAlgo := by
  cases h with
  | success => cases hf
  | failure e =>
    cases e with
    | unsupportedAlgorithm => rfl
    | _ => cases hf

theorem code_ne_encoding (h : r.Legal c) : r.code ≠ .encoding := by
  cases h with
  | success => exact fun hc => nomatch hc
  | failure e _ _ reachable => exact reachable

theorem failed_empty (h : r.Legal c) (hc : r.code ≠ .ok) : r.out.length = 0 := by
  cases h with
  | success => exact absurd rfl hc
  | failure => rfl

theorem success_clean (h : r.Legal c) (hc : r.code = .ok) : r.errExp = 0 ∧ r.errAct = 0 := by
  cases h with
  | success => exact ⟨rfl, rfl⟩
  | failure e => cases e <;> cases hc

theorem memory_below (h : r.Legal c) {m : Memory} (hm : Memory.below c.outCap m = true) :
    Memory.below c.outCap (r.out.memory m) = true := by
  cases h with
  | failure => rfl
  | success _ _ out fits =>
    cases out with
    | bytes b => exact Memory.below_ofBytes b _ 0 (by simpa using fits b rfl)
    | kept => exact hm
    | undefined => rfl

end Results.Legal

/-! ### The invariant and each update -/

namespace State.Inv

variable {c : Config} {s : State}

/-- The pending snapshot fits InBuf. -/
theorem pending_data_length (h : s.Inv c) {p : Pending} (hp : s.pending = some p) : p.data.length ≤ c.inCap := by
  rw [(h.snapshot p hp).2, inPrefix_length]
  exact Nat.min_le_right _ _

theorem agendaTail (h : s.Inv c) : Inv c { s with agenda := s.agenda.tail } := { h with }

theorem respond (h : s.Inv c) (r : Response) : (s.respond r).Inv c := { h with }

theorem dropWrite (h : s.Inv c) : s.dropWrite.Inv c := { h with }

theorem writeCtrl (h : s.Inv c) (w : Word) : (s.writeCtrl w).Inv c := { h with }

theorem writeStatus (h : s.Inv c) (w : Word) : (s.writeStatus w).Inv c :=
  { h with
    busy_clear := fun hb => by
      obtain ⟨hdone, hcode, hfield⟩ := h.busy_clear hb
      exact ⟨by simp [hdone], hcode, hfield⟩ }

/-- IN_LEN may change only while nothing is pending. -/
theorem setInLen (h : s.Inv c) (hi : s.busy = false) (w : Word) : Inv c { s with inLen := w } :=
  { h with snapshot := fun _ hp => nomatch (pending_eq_none hi).symm.trans hp }

/-- InBuf may change only while nothing is pending, and at indices inside its capacity. -/
theorem writeInBuf (h : s.Inv c) (hi : s.busy = false) (i : Nat) (bytes : ByteSeq) (hfit : i + bytes.length ≤ c.inCap) :
    Inv c { s with inBuf := Memory.writeBytes s.inBuf i bytes } :=
  { h with
    inBuf_wf := Memory.wf_writeBytes bytes _ i h.inBuf_wf
    inBuf_below := Memory.below_writeBytes bytes _ _ i hfit h.inBuf_below
    snapshot := fun _ hp => nomatch (pending_eq_none hi).symm.trans hp }

/-- An accept takes the snapshot it needs and clears what BUSY demands clear. -/
theorem accept (h : s.Inv c) (w : Word) : (s.accept c w).Inv c :=
  { h with
    snapshot := fun _ hp => by cases hp; exact ⟨rfl, rfl⟩
    busy_clear := fun _ => ⟨rfl, rfl, rfl⟩
    field_code := fun hf => nomatch hf
    no_encoding_error := fun hc => nomatch hc
    failed_empty := fun hc => absurd rfl hc
    success_clean := fun hb => nomatch hb }

theorem resetStep (s : State) : s.resetStep.Inv c where
  inBuf_wf := rfl
  inBuf_below := rfl
  outBuf_wf := rfl
  outBuf_below := rfl
  out_defined := fun j hj => absurd hj (Nat.not_lt_zero j)
  snapshot := fun _ hp => nomatch hp
  busy_clear := fun hb => nomatch hb
  field_code := fun hf => nomatch hf
  no_encoding_error := fun hc => nomatch hc
  failed_empty := fun _ => rfl
  success_clean := fun _ _ => ⟨rfl, rfl⟩

/-- A completion with legal results, whatever the unit held in its registers before. -/
theorem complete (h : s.Inv c) {r : Results} (hr : r.Legal c) : (s.complete r).Inv c where
  inBuf_wf := h.inBuf_wf
  inBuf_below := h.inBuf_below
  outBuf_wf := OutResult.wf_memory r.out s.outBuf h.outBuf_wf
  outBuf_below := hr.memory_below h.outBuf_below
  out_defined := OutResult.memory_defined r.out s.outBuf
  snapshot := fun _ hp => nomatch hp
  busy_clear := fun hb => nomatch hb
  field_code := hr.field_code
  no_encoding_error := hr.code_ne_encoding
  failed_empty := hr.failed_empty
  success_clean := fun _ => hr.success_clean

/-- A write that passed the checks of R32. -/
theorem busWrite (h : s.Inv c) {a : Access} (ha : accessError c a = false) : (Machine.busWrite c a s).Inv c := by
  rcases busWrite_cases c a s with e | ⟨-, e⟩ | ⟨-, -, e⟩ | ⟨-, e⟩ | ⟨-, e⟩ | ⟨hi, -, e⟩ | ⟨hi, hr, e⟩ <;> rw [e]
  · exact h
  · exact h.dropWrite
  · exact h.accept _
  · exact h.writeStatus _
  · exact h.writeCtrl _
  · exact h.setInLen hi _
  · exact h.writeInBuf hi _ _ (inBuf_lanes_fit ha hr)

theorem busAccess (h : s.Inv c) (a : Access) : (Machine.busAccess c a s).Inv c := by
  rcases busAccess_cases c a s with ⟨-, e⟩ | ⟨-, -, e⟩ | ⟨ha, -, e⟩ <;> rw [e]
  · exact h.respond _
  · exact h.respond _
  · exact (h.busWrite ha).respond _

/-- Every event, in every configuration. -/
theorem eventStep (h : s.Inv c) (e : Event) : (Machine.eventStep c e s).Inv c := by
  cases e with
  | access a => exact h.busAccess a
  | reset => exact resetStep s
  | complete =>
    unfold Machine.eventStep
    cases hp : s.pending with
    | none => exact h
    | some p => exact h.complete (completion_legal c p (h.pending_data_length hp))

end State.Inv

/-- Settles O56: the step is the next event on the state with that event off the agenda, and each of the two keeps the invariant. -/
theorem stepKeepsInvariant : Obligations.StepKeepsInvariant := by
  intro s t hs hstep
  rw [step_eq, nextEvent_snd] at hstep
  cases hstep
  exact hs.agendaTail.eventStep _

end Sys2Proof.Machine
end

section
/-! PROOFS. What a completion leaves depends on its results alone (10_state.md R28). -/

namespace Sys2Proof.Machine

/-- After a completion OutBuf's defined bytes are those of its output below OUT_LEN. -/
theorem State.complete_outByte (r : Results) (s : State) (j : Nat) :
    (s.complete r).outByte j = if j < r.out.length.toNat then Memory.read (r.out.memory s.outBuf) j else none := rfl

/-- Below its length an output does not show what OutBuf held before: CHECKSUM, which keeps OutBuf, has length 0. -/
theorem OutResult.read_memory_congr (o : OutResult) (m m' : Memory) (j : Nat) (hj : j < o.length.toNat) :
    Memory.read (o.memory m) j = Memory.read (o.memory m') j := by
  cases o with
  | bytes r => rfl
  | kept => exact absurd hj (Nat.not_lt_zero j)
  | undefined => rfl

/-- Two completions with the same results leave the same results, whatever the two states were. -/
theorem State.complete_sameResults (r : Results) (s u : State) : State.SameResults (s.complete r) (u.complete r) where
  done := rfl
  code := rfl
  field := rfl
  outLen := rfl
  cksum := rfl
  decSig := rfl
  decVers := rfl
  decLen := rfl
  decCksum := rfl
  errExp := rfl
  errAct := rfl
  out := fun j => by
    rw [complete_outByte, complete_outByte]
    split
    next hj => exact OutResult.read_memory_congr r.out _ _ j hj
    next => rfl

/-- Settles O19: a command is a completion whose results are a function of the input. -/
theorem resultsDependOnlyOnInput : Obligations.ResultsDependOnlyOnInput := by
  intro i s u hin
  refine ⟨_, _, exec_eq i s, exec_eq i u, ?_⟩
  rw [hin]
  exact State.complete_sameResults _ s u

end Sys2Proof.Machine
end

section
/-! PROOFS. The registers as read: the places of their bits (10_state.md R13, R14, R18, R27). -/

namespace Sys2Proof.Machine

/-- Appending an `m`-bit field multiplies by `2 ^ m` and adds it. -/
theorem append_field_toNat {n m : Nat} (x : BitVec n) (y : BitVec m) : (x ++ y).toNat = x.toNat * 2 ^ m + y.toNat := by
  rw [BitVec.toNat_append, ← Nat.shiftLeft_add_eq_or_of_lt y.isLt, Nat.shiftLeft_eq]

/-! ### STATUS -/

/-- STATUS as a number, each field at its weight. -/
theorem State.statusWord_toNat (s : State) :
    s.statusWord.toNat =
      s.busy.toNat + 2 * s.done.toNat + 4 * s.err.toNat + 8 * s.haz.toNat + 16 * s.code.bits.toNat + 256 * s.field.toNat := by
  simp only [State.statusWord, append_field_toNat, BitVec.toNat_ofBool, BitVec.toNat_zero]
  omega

theorem State.busy_toNat (s : State) : s.busy.toNat = if s.pending = none then 0 else 1 := by
  cases h : s.pending <;> simp [State.busy, h]

theorem State.err_toNat (s : State) : s.err.toNat = if s.code = .ok then 0 else 1 := by
  cases h : s.code <;> simp [State.err, h, StatusCode.bits]

/-- Bit 1 of STATUS is DONE. -/
theorem State.statusWord_getLsbD_one (s : State) : s.statusWord.getLsbD 1 = s.done := by
  simp only [State.statusWord, BitVec.getLsbD_append]
  simp

/-- Settles O36: each field of STATUS at its weight, then the number of each code. -/
theorem statusBitsLayout : Obligations.StatusBitsLayout := by
  intro s
  rw [s.statusWord_toNat, s.busy_toNat, s.err_toNat]
  simp only [Bool.toNat, cond_eq_ite, mul_ite, mul_zero, mul_one]
  cases s.code <;> rfl

/-! ### CTRL and IRQ -/

/-- Bit 0 of CTRL is IE. -/
theorem State.ctrlWord_getLsbD_zero (s : State) : s.ctrlWord.getLsbD 0 = s.ie := by
  simp only [State.ctrlWord, BitVec.getLsbD_append]
  simp

/-- CTRL as read is 1 or 0. -/
theorem State.ctrlWord_eq (s : State) : s.ctrlWord = if s.ie then 1 else 0 := by
  cases h : s.ie <;> simp [State.ctrlWord, h]

/-- Settles O50: the two bits as read are IE and DONE. -/
theorem irqIsEnableAndDone : Obligations.IrqIsEnableAndDone := by
  refine ⟨fun s => ?_, rfl⟩
  simp only [State.readReg, State.ctrlWord_getLsbD_zero, State.statusWord_getLsbD_one, State.irq]

/-! ### DEC_HDR -/

/-- The fields of the versions byte stand at bits 7:4, 3:2 and 1:0 (30_encoding.md R48). -/
theorem unpackVersions_eq (v : Byte) : unpackVersions v = ⟨v.extractLsb' 4 4, v.extractLsb' 2 2, v.extractLsb' 0 2⟩ := by
  simp only [unpackVersions, Versions.mk.injEq]
  refine ⟨?_, ?_, ?_⟩
  · ext i hi
    simp
  · ext i hi
    interval_cases i <;> simp
  · ext i hi
    interval_cases i <;> simp

/-- Settles O37: each extract of the concatenation falls wholly inside one of its parts. -/
theorem decHdrBitsLayout : Obligations.DecHdrBitsLayout := by
  intro s
  simp (disch := decide) only [State.decHdrWord, unpackVersions_eq, BitVec.extractLsb'_append_eq_of_le,
    BitVec.extractLsb'_append_eq_of_add_le, Nat.reduceSub, BitVec.extractLsb'_eq_self, BitVec.ofNat_eq_ofNat, and_self]

end Sys2Proof.Machine
end

section
/-! PROOFS. The register map on the bus (10_state.md R11, R23, 20_memory.md R34). -/

namespace Sys2Proof.Machine

/-- The map finds a register exactly at the word of its offset. -/
theorem regAt_toNat_eq_some_iff (w : Word) (r : Reg) : regAt w.toNat = some r ↔ w = r.addr := by
  constructor
  · intro h
    rw [Reg.addr, offset_of_regAt h, BitVec.ofNat_toNat, BitVec.setWidth_eq]
  · rintro rfl
    cases r <;> rfl

/-- The map finds none exactly at the other words. -/
theorem regAt_toNat_eq_none_iff (w : Word) : regAt w.toNat = none ↔ ∀ r : Reg, w ≠ r.addr := by
  simp only [Option.eq_none_iff_forall_ne_some, ne_eq, regAt_toNat_eq_some_iff]

/-- A read of an aligned word in REG answers the register found there, and 0 if there is none (10_state.md R23). -/
theorem busAccess_read_reg (c : Config) (s : State) (o w : Word) (ho : o.toNat < 0x1000) (h4 : o.toNat % 4 = 0) :
    busAccess c ⟨.read, o, .word, w⟩ s = s.respond ⟨.okay, (regAt o.toNat).elim 0 (s.busReadReg c)⟩ := by
  have hr := (regionOf_reg_iff c o.toNat).mpr ho
  rw [busAccess, accessError_reg_word c _ o w ho h4]
  cases hg : regAt o.toNat <;> simp [busRead, hr, hg]

/-- A write of an aligned word in REG writes the register found there, and none if there is none. -/
theorem busAccess_write_reg (c : Config) (s : State) (o w : Word) (ho : o.toNat < 0x1000) (h4 : o.toNat % 4 = 0) :
    busAccess c ⟨.write, o, .word, w⟩ s = ((regAt o.toNat).elim s (s.writeReg c · w)).respond ⟨.okay, 0⟩ := by
  have hr := (regionOf_reg_iff c o.toNat).mpr ho
  rw [busAccess, accessError_reg_word c _ o w ho h4]
  cases hg : regAt o.toNat <;> simp [busWrite, hr, hg]

/-- While idle a register reads over the bus as its value (70_reset_and_hazards.md R97). -/
theorem State.busReadReg_idle (c : Config) {s : State} (h : s.pending = none) : s.busReadReg c = s.readReg := by
  funext r
  simp [State.busReadReg, State.busy, h]

/-- The register map as a chain of the words it names. -/
theorem readReg_regAt_eq (s : State) (w : Word) :
    (regAt w.toNat).elim 0 s.readReg =
      if w = 0x004 then s.statusWord
      else if w = 0x008 then (if s.ie then 1 else 0)
      else if w = 0x00C then s.inLen
      else if w = 0x010 then s.outLen
      else if w = 0x014 then s.cksum.setWidth 32
      else if w = 0x018 then s.decHdrWord
      else if w = 0x01C then s.decLen
      else if w = 0x020 then s.decCksum.setWidth 32
      else if w = 0x024 then s.errExp
      else if w = 0x028 then s.errAct
      else 0 := by
  cases hg : regAt w.toNat with
  | none =>
    have hw : ∀ r ∈ Reg.all, w ≠ r.addr := fun r _ => (regAt_toNat_eq_none_iff w).mp hg r
    simp only [Reg.all, List.forall_mem_cons, Reg.addr, Reg.offset] at hw
    simp [hw]
  | some r =>
    rw [(regAt_toNat_eq_some_iff w r).mp hg, ← s.ctrlWord_eq]
    cases r <;> rfl

/-- Settles O38: the access proceeds and reads the register found at its word, whose value the agenda does not touch. -/
theorem idleRegisterReads : Obligations.IdleRegisterReads := by
  rintro s u ⟨kind, o, size, w⟩ hnext hidle hk hs ho h4
  cases hk; cases hs
  obtain ⟨hstep, hu⟩ := step_of_access hnext
  have hreg : u.readReg = s.readReg := by rw [hu]; rfl
  rw [hstep, busAccess_read_reg _ _ o w ho h4, State.busReadReg_idle _ (by rw [hu]; exact hidle), hreg, readReg_regAt_eq]

/-- Settles O43: the register found at 0x00C is IN_LEN, and an idle unit does not drop the write. -/
theorem idleInLenWriteStores : Obligations.IdleInLenWriteStores := by
  intro s u v hnext hidle
  obtain ⟨hstep, rfl⟩ := step_of_access hnext
  have hreg : regAt (0x00C : Word).toNat = some .inLen := (regAt_toNat_eq_some_iff _ .inLen).mpr rfl
  rw [hstep, busAccess_write_reg _ _ 0x00C v (by decide) (by decide), hreg]
  simp [State.writeReg, State.writeInLen, State.busy, hidle]

end Sys2Proof.Machine
end

section
/-! PROOFS. The host port: which accesses proceed, and what an answered access does to the state (20_memory.md R30 to R33). -/

namespace Sys2Proof.Machine

/-- A mapped address between the two window bases is in IN_BUF. -/
theorem regionOf_eq_inBuf {c : Config} {a : Nat} (h : regionOf c a ≠ .unmapped) (hlo : 0x40000000 ≤ a) (hhi : a < 0x80000000) :
    regionOf c a = .inBuf := by
  cases hr : regionOf c a with
  | inBuf => rfl
  | reg => have hreg := (regionOf_reg_iff c a).mp hr; omega
  | outBuf => have hout := ((regionOf_outBuf_iff c a).mp hr).1; unfold outBase at hout; omega
  | unmapped => exact absurd hr h

/-- A mapped address from the second window base up is in OUT_BUF. -/
theorem regionOf_eq_outBuf {c : Config} {a : Nat} (h : regionOf c a ≠ .unmapped) (hlo : 0x80000000 ≤ a) :
    regionOf c a = .outBuf := by
  have hcap := Config.inCap_bounds c
  cases hr : regionOf c a with
  | outBuf => rfl
  | reg => have hreg := (regionOf_reg_iff c a).mp hr; omega
  | inBuf => have hin := ((regionOf_inBuf_iff c a).mp hr).2; unfold inBase at hin; omega
  | unmapped => exact absurd hr h

/-- A byte access proceeds exactly in the two windows, where OUT_BUF takes no write (20_memory.md R32). -/
theorem accessError_byte_iff (c : Config) (k : AccessKind) (addr w : Word) :
    accessError c ⟨k, addr, .byte, w⟩ = false ↔
      regionOf c addr.toNat = .inBuf ∨ (k = .read ∧ regionOf c addr.toNat = .outBuf) := by
  rw [accessError_eq_false_iff]
  cases regionOf c addr.toNat <;> cases k <;> simp

/-- A word access proceeds exactly when it is aligned and its first and last byte are in one region that allows it
(20_memory.md R32). -/
theorem accessError_word_iff (c : Config) (k : AccessKind) (addr w : Word) :
    accessError c ⟨k, addr, .word, w⟩ = false ↔
      addr.toNat % 4 = 0 ∧
        ((regionOf c addr.toNat = .reg ∧ regionOf c (addr.toNat + 3) = .reg) ∨
          (regionOf c addr.toNat = .inBuf ∧ regionOf c (addr.toNat + 3) = .inBuf) ∨
          (k = .read ∧ regionOf c addr.toNat = .outBuf ∧ regionOf c (addr.toNat + 3) = .outBuf)) := by
  rw [accessError_eq_false_iff]
  cases regionOf c addr.toNat <;> cases k <;> simp

/-- Settles O35: each size in turn, the regions as address ranges; an aligned word that begins in REG ends there. -/
theorem accessProceedsExactlyInMap : Obligations.AccessProceedsExactlyInMap := by
  rintro c ⟨k, addr, size, w⟩
  cases size with
  | other => simp [accessError]
  | byte =>
    simp only [accessError_byte_iff, regionOf_inBuf_iff, regionOf_outBuf_iff, inBase, outBase, Config.outCap, reduceCtorEq,
      if_false, ne_eq, not_false_eq_true, true_and, false_and, false_or, Nat.mod_one]
    exact or_congr (by omega) (and_congr_right fun _ => by omega)
  | word =>
    simp only [accessError_word_iff, regionOf_reg_iff, regionOf_inBuf_iff, regionOf_outBuf_iff, inBase, outBase, Config.outCap,
      if_true, ne_eq, reduceCtorEq, not_false_eq_true, true_and]
    exact and_congr_right fun h4 => or_congr (by omega) (or_congr (by omega) (and_congr_right fun _ => by omega))

/-- An access that fails the tests of R32 is only answered (20_memory.md R33). -/
theorem busAccess_error {c : Config} {a : Access} (s : State) (h : accessError c a = true) :
    busAccess c a s = s.respond ⟨.error, 0⟩ := by
  simp [busAccess, h]

/-- A read that proceeds is only answered (20_memory.md R40). -/
theorem busAccess_read {c : Config} {a : Access} (s : State) (h : accessError c a = false) (hk : a.kind = .read) :
    busAccess c a s = s.respond ⟨.okay, busRead c a s⟩ := by
  simp [busAccess, h, hk]

/-- A write that proceeds is performed and answered. -/
theorem busAccess_write {c : Config} {a : Access} (s : State) (h : accessError c a = false) (hk : a.kind = .write) :
    busAccess c a s = (busWrite c a s).respond ⟨.okay, 0⟩ := by
  simp [busAccess, h, hk]

/-- Settles O34: the step answers ERROR on the state with the event off the agenda. -/
theorem errorAccessChangesNothing : Obligations.ErrorAccessChangesNothing := by
  intro s u a hnext herr
  obtain ⟨hstep, rfl⟩ := step_of_access hnext
  rw [hstep, busAccess_error _ herr]
  rfl

/-- A step that is an access leaves what the access leaves. -/
theorem eq_busAccess_of_step {s u t : State} {a : Access} (h : nextEvent s = (.access a, u)) (ht : step s = .next t) :
    t = busAccess Config.unit a u ∧ u = { s with agenda := s.agenda.tail } := by
  obtain ⟨hstep, hu⟩ := step_of_access h
  rw [hstep] at ht
  cases ht
  exact ⟨rfl, hu⟩

/-- A write leaves CODE and FIELD, or it is a write to CMD that an idle unit accepts (70_reset_and_hazards.md R93). -/
theorem busWrite_code_field (c : Config) (a : Access) (s : State) :
    ((busWrite c a s).code = s.code ∧ (busWrite c a s).field = s.field) ∨
      (s.busy = false ∧ regAt a.addr.toNat = some .cmd ∧ (busWrite c a s).busy = true) := by
  rcases busWrite_cases c a s with e | ⟨-, e⟩ | ⟨hi, hcmd, e⟩ | ⟨-, e⟩ | ⟨-, e⟩ | ⟨-, -, e⟩ | ⟨-, -, e⟩ <;> rw [e]
  · exact .inl ⟨rfl, rfl⟩
  · exact .inl ⟨rfl, rfl⟩
  · exact .inr ⟨hi, hcmd, rfl⟩
  · exact .inl ⟨rfl, rfl⟩
  · exact .inl ⟨rfl, rfl⟩
  · exact .inl ⟨rfl, rfl⟩
  · exact .inl ⟨rfl, rfl⟩

/-- An access to REG that proceeds is a word (20_memory.md R32). -/
theorem size_eq_word_of_reg {c : Config} {a : Access} (h : accessError c a = false) (hr : regionOf c a.addr.toNat = .reg) :
    a.size = .word := by
  obtain ⟨hother, -, -, hbyte, -⟩ := (accessError_eq_false_iff c a).mp h
  cases hs : a.size with
  | word => rfl
  | byte => exact absurd hr (hbyte hs)
  | other => exact absurd hs hother

/-- An access leaves CODE and FIELD, or it is a word write to CMD that an idle unit accepts (70_reset_and_hazards.md R93). -/
theorem busAccess_code_field (c : Config) (a : Access) (s : State) :
    ((busAccess c a s).code = s.code ∧ (busAccess c a s).field = s.field) ∨
      (s.busy = false ∧ a.kind = .write ∧ a.size = .word ∧ a.addr = 0x000 ∧ (busAccess c a s).busy = true) := by
  rcases busAccess_cases c a s with ⟨-, e⟩ | ⟨-, -, e⟩ | ⟨hok, hk, e⟩ <;> rw [e]
  · exact .inl ⟨rfl, rfl⟩
  · exact .inl ⟨rfl, rfl⟩
  · refine (busWrite_code_field c a s).imp_right ?_
    rintro ⟨hi, hcmd, hb⟩
    have haddr : a.addr = 0x000 := (regAt_toNat_eq_some_iff a.addr .cmd).mp hcmd
    have hreg : regionOf c a.addr.toNat = .reg := (regionOf_reg_iff c _).mpr (by rw [haddr]; decide)
    exact ⟨hi, hk, size_eq_word_of_reg hok hreg, haddr, hb⟩

/-- Settles O53: an access leaves every result, and of CODE and FIELD it changes nothing unless it is accepted. -/
theorem accessesKeepResults : Obligations.AccessesKeepResults := by
  intro s u t a hnext hstep
  obtain ⟨rfl, hu⟩ := eq_busAccess_of_step hnext hstep
  have hres := busAccess_results Config.unit a u
  have hcode := busAccess_code_field Config.unit a u
  subst hu
  obtain ⟨hlen, hck, hsig, hvers, hdlen, hdck, hexp, hact, hbuf, -⟩ := hres
  refine ⟨hlen, hck, hsig, hvers, hdlen, hdck, hexp, hact, hbuf, hcode.imp_right ?_⟩
  rintro ⟨hi, hk, hs, ha, hb⟩
  exact ⟨State.pending_eq_none hi, hk, hs, ha, fun hn => by simp [State.busy, hn] at hb⟩

/-- While BUSY a write leaves the pending command and its input (70_reset_and_hazards.md R96). -/
theorem busWrite_busy_input (c : Config) (a : Access) {s : State} (hb : s.busy = true) :
    (busWrite c a s).pending = s.pending ∧ (busWrite c a s).inLen = s.inLen ∧ (busWrite c a s).inBuf = s.inBuf := by
  have hidle : s.busy ≠ false := by simp [hb]
  rcases busWrite_cases c a s with e | ⟨-, e⟩ | ⟨hi, -⟩ | ⟨-, e⟩ | ⟨-, e⟩ | ⟨hi, -⟩ | ⟨hi, -⟩
  · simp [e]
  · simp [e]
  · exact absurd hi hidle
  · simp [e]
  · simp [e]
  · exact absurd hi hidle
  · exact absurd hi hidle

/-- While BUSY an access leaves the pending command and its input (20_memory.md R44). -/
theorem busAccess_busy_input (c : Config) (a : Access) {s : State} (hb : s.busy = true) :
    (busAccess c a s).pending = s.pending ∧ (busAccess c a s).inLen = s.inLen ∧ (busAccess c a s).inBuf = s.inBuf := by
  rcases busAccess_cases c a s with ⟨-, e⟩ | ⟨-, -, e⟩ | ⟨-, -, e⟩ <;> rw [e]
  · exact ⟨rfl, rfl, rfl⟩
  · exact ⟨rfl, rfl, rfl⟩
  · exact busWrite_busy_input c a hb

/-- Settles O54: the unit is BUSY, and an access takes no new draw for InBuf. -/
theorem pendingInputIsStable : Obligations.PendingInputIsStable := by
  intro s u t a p hnext hp hstep
  obtain ⟨rfl, hu⟩ := eq_busAccess_of_step hnext hstep
  have hbusy : u.busy = true := by simp [hu, State.busy, hp]
  obtain ⟨hpend, hlen, hbuf⟩ := busAccess_busy_input Config.unit a hbusy
  obtain ⟨-, -, -, -, -, -, -, -, -, hdraw, -⟩ := busAccess_results Config.unit a u
  subst hu
  exact ⟨hpend.trans hp, hlen, hbuf, congrFun (State.inByte_congr _ s _ hbuf hdraw)⟩

end Sys2Proof.Machine
end

section
/-! PROOFS. The buffer windows: the lanes of an access and the bytes they name (20_memory.md R35 to R38). -/

namespace Sys2Proof.Machine

/-! ### Lanes -/

/-- Lane `k` of a word read is the byte at offset `k` (20_memory.md R35). -/
theorem readLanes_word_lane (f : Nat → Byte) (k : Nat) (hk : k < 4) : (readLanes .word f).extractLsb' (8 * k) 8 = f k := by
  rw [readLanes_word]
  interval_cases k <;>
    simp (disch := decide) only [Nat.reduceMul, BitVec.extractLsb'_append_eq_of_le, BitVec.extractLsb'_append_eq_of_add_le,
      Nat.reduceSub, BitVec.extractLsb'_eq_self]

/-- A byte read is a word read whose upper lanes are zero. -/
theorem readLanes_byte_eq_word (f : Nat → Byte) : readLanes .byte f = readLanes .word (fun k => if k = 0 then f k else 0) := by
  simp [readLanes]

/-- Lane `k` of the read data is the byte at offset `k`; above the first lane a byte read is zero (20_memory.md R35). -/
theorem readLanes_lane (size : AccessSize) (hs : size ≠ .other) (f : Nat → Byte) (k : Nat) (hk : k < 4) :
    (readLanes size f).extractLsb' (8 * k) 8 = if k = 0 ∨ size = .word then f k else 0 := by
  cases size with
  | other => exact absurd rfl hs
  | byte => rw [readLanes_byte_eq_word, readLanes_word_lane _ k hk]; simp
  | word => rw [readLanes_word_lane f k hk]; simp

/-- A byte read is below 256. -/
theorem readLanes_byte_lt (f : Nat → Byte) : (readLanes .byte f).toNat < 256 := by
  have hb := (f 0).isLt
  simp only [readLanes, BitVec.toNat_setWidth]
  omega

/-- The read data depends only on the bytes of the access. -/
theorem readLanes_congr (size : AccessSize) {f g : Nat → Byte} (h : ∀ k, k < 4 → (k = 0 ∨ size = .word) → f k = g k) :
    readLanes size f = readLanes size g := by
  cases size with
  | other => rfl
  | byte => simp only [readLanes, h 0 (by decide) (.inl rfl)]
  | word =>
    simp only [readLanes, h 0 (by decide) (.inr rfl), h 1 (by decide) (.inr rfl), h 2 (by decide) (.inr rfl),
      h 3 (by decide) (.inr rfl)]

/-- The byte a write stores at offset `j` from its address, and `d` where it stores none (20_memory.md R36). -/
theorem writeLanes_getD (size : AccessSize) (hs : size ≠ .other) (w : Word) (j : Nat) (d : Byte) :
    (writeLanes size w)[j]?.getD d =
      if j = 0 then w.extractLsb' 0 8
      else if size = .word ∧ j = 1 then w.extractLsb' 8 8
      else if size = .word ∧ j = 2 then w.extractLsb' 16 8
      else if size = .word ∧ j = 3 then w.extractLsb' 24 8
      else d := by
  cases size with
  | other => exact absurd rfl hs
  | byte => cases j <;> simp [writeLanes]
  | word => rcases j with _ | _ | _ | _ | j <;> simp [writeLanes]

/-- A store leaves every byte of InBuf below its index. -/
theorem State.inByte_writeBytes_below (c : Config) (s : State) {a i : Nat} (vs : ByteSeq) (h : i < a) :
    State.inByte c { s with inBuf := Memory.writeBytes s.inBuf a vs } i = s.inByte c i := by
  simp only [State.inByte, Memory.read_writeBytes, if_neg (show ¬ (a ≤ i ∧ i < a + vs.length) by omega)]

/-- From the index of a store on, InBuf holds the stored bytes and then what it held before. -/
theorem State.inByte_writeBytes_add (c : Config) (s : State) (a j : Nat) (vs : ByteSeq) :
    State.inByte c { s with inBuf := Memory.writeBytes s.inBuf a vs } (a + j) = (vs[j]?).getD (s.inByte c (a + j)) := by
  simp only [State.inByte, Memory.read_writeBytes, Nat.le_add_right, Nat.add_lt_add_iff_left, true_and, Nat.add_sub_cancel_left]
  split
  next h => rw [List.getElem?_eq_getElem h]; rfl
  next h => rw [List.getElem?_eq_none (Nat.le_of_not_lt h)]; rfl

/-! ### Reads and writes by region -/

/-- A read that proceeds is answered from the state the access meets, which the agenda does not touch. -/
theorem step_read {s u : State} {a : Access} (h : nextEvent s = (.access a, u)) (hok : accessError Config.unit a = false)
    (hk : a.kind = .read) : step s = .next (u.respond ⟨.okay, busRead Config.unit a s⟩) := by
  obtain ⟨hstep, rfl⟩ := step_of_access h
  rw [hstep, busAccess_read _ hok hk]
  rfl

/-- The read data in IN_BUF. -/
theorem busRead_inBuf {c : Config} {a : Access} (s : State) (hr : regionOf c a.addr.toNat = .inBuf) :
    busRead c a s = readLanes a.size (fun k => s.inByte c (a.addr.toNat - inBase + k)) := by
  simp only [busRead, hr]

/-- The read data in OUT_BUF. -/
theorem busRead_outBuf {c : Config} {a : Access} (s : State) (hr : regionOf c a.addr.toNat = .outBuf) :
    busRead c a s = readLanes a.size (s.busOutByte c (a.addr.toNat - outBase)) := by
  simp only [busRead, hr]

/-- The read data in REG. -/
theorem busRead_reg {c : Config} {a : Access} (s : State) (hr : regionOf c a.addr.toNat = .reg) :
    busRead c a s = (regAt a.addr.toNat).elim 0 (s.busReadReg c) := by
  cases hg : regAt a.addr.toNat <;> simp [busRead, hr, hg]

/-- A write in IN_BUF stores its bytes while the unit is idle (20_memory.md R36). -/
theorem busWrite_inBuf {c : Config} {a : Access} {s : State} (hr : regionOf c a.addr.toNat = .inBuf) (hi : s.pending = none) :
    busWrite c a s =
      { s with inBuf := Memory.writeBytes s.inBuf (a.addr.toNat - inBase) (writeLanes a.size a.wdata) } := by
  simp [busWrite, hr, State.writeInBuf, State.busy, hi]

/-! ### IN_BUF -/

/-- Settles O45: the access is in IN_BUF, and its lanes are the bytes there. -/
theorem inBufReadReturnsLanes : Obligations.InBufReadReturnsLanes := by
  intro s u a hnext hk hok hlo hhi
  obtain ⟨hother, hmapped, -⟩ := (accessError_eq_false_iff _ a).mp hok
  refine ⟨_, step_read hnext hok hk, fun k hk4 => ?_⟩
  rw [busRead_inBuf s (regionOf_eq_inBuf hmapped hlo hhi), readLanes_lane a.size hother _ k hk4, inBase]

/-- InBuf after a write in IN_BUF: each stored byte stands at its own offset from the address. -/
theorem State.inByte_writeLanes (c : Config) (s : State) (addr : Nat) (hlo : 0x40000000 ≤ addr) (size : AccessSize)
    (hs : size ≠ .other) (w : Word) (i : Nat) :
    State.inByte c { s with inBuf := Memory.writeBytes s.inBuf (addr - inBase) (writeLanes size w) } i =
      if 0x40000000 + i = addr then w.extractLsb' 0 8
      else if size = .word ∧ 0x40000000 + i = addr + 1 then w.extractLsb' 8 8
      else if size = .word ∧ 0x40000000 + i = addr + 2 then w.extractLsb' 16 8
      else if size = .word ∧ 0x40000000 + i = addr + 3 then w.extractLsb' 24 8
      else s.inByte c i := by
  obtain ⟨a, rfl⟩ := Nat.exists_eq_add_of_le hlo
  rw [inBase, Nat.add_sub_cancel_left]
  rcases Nat.lt_or_ge i a with hi | hi
  · rw [State.inByte_writeBytes_below c s _ hi]
    simp only [Nat.add_assoc, Nat.add_left_cancel_iff, show i ≠ a by omega, show ∀ n, i ≠ a + n by omega, and_false, if_false]
  · obtain ⟨j, rfl⟩ := Nat.exists_eq_add_of_le hi
    rw [State.inByte_writeBytes_add, writeLanes_getD size hs]
    simp only [Nat.add_assoc, Nat.add_left_cancel_iff, Nat.add_eq_left]

/-- Settles O44: the write is in IN_BUF, and the agenda has no part in what InBuf holds. -/
theorem inBufWriteStoresLanes : Obligations.InBufWriteStoresLanes := by
  intro s u a hnext hidle hk hok hlo
  obtain ⟨hstep, hu⟩ := step_of_access hnext
  obtain ⟨hother, hmapped, -, -, hwrite⟩ := (accessError_eq_false_iff _ a).mp hok
  have hhi : a.addr.toNat < 0x80000000 := Nat.lt_of_not_le fun h => hwrite hk (regionOf_eq_outBuf hmapped h)
  have hidle' : u.pending = none := by rw [hu]; exact hidle
  have hbytes : u.inByte Config.unit = s.inByte Config.unit := by rw [hu]; rfl
  rw [busAccess_write u hok hk, busWrite_inBuf (regionOf_eq_inBuf hmapped hlo hhi) hidle'] at hstep
  refine ⟨_, hstep, rfl, fun i => ?_⟩
  rw [← hbytes]
  exact State.inByte_writeLanes _ u _ hlo a.size hother a.wdata i

/-! ### OUT_BUF -/

/-- While idle OutBuf's defined bytes are those listed below OUT_LEN (10_state.md R25). -/
theorem State.outByte_idle {s : State} (hi : s.pending = none) {j : Nat} (hj : j < s.outLen.toNat) :
    s.outByte j = Memory.read s.outBuf j := by
  simp [State.outByte, State.busy, hi, hj]

/-- A defined byte of OutBuf is read as it is (20_memory.md R37). -/
theorem State.busOutByte_of_defined {c : Config} {s : State} {j k : Nat} {b : Byte} (h : s.outByte (j + k) = some b) :
    s.busOutByte c j k = b := by
  simp [State.busOutByte, h]

/-- Settles O46: the access is in OUT_BUF, and a lane whose byte is defined shows it. -/
theorem outBufReadReturnsResult : Obligations.OutBufReadReturnsResult := by
  intro s u a hnext hidle hk hok hlo
  obtain ⟨hother, hmapped, -⟩ := (accessError_eq_false_iff _ a).mp hok
  refine ⟨_, step_read hnext hok hk, ?_⟩
  rw [busRead_outBuf s (regionOf_eq_outBuf hmapped hlo)]
  refine ⟨fun k b hk4 hlane hlen hread => ?_, fun hs => ?_⟩
  · rw [readLanes_lane a.size hother _ k hk4, if_pos hlane]
    exact State.busOutByte_of_defined ((State.outByte_idle hidle hlen).trans hread)
  · rw [hs]
    exact readLanes_byte_lt _

end Sys2Proof.Machine
end

section
/-! PROOFS. Repeated reads (20_memory.md R40): what a read answers when it returns no draw. -/

namespace Sys2Proof.Machine

/-- The result registers fill the map from OUT_LEN up to its end (10_state.md R11). -/
theorem Reg.isResult_iff (r : Reg) : r.isResult = true ↔ 0x010 ≤ r.offset ∧ r.offset < 0x02C := by
  cases r <;> decide

/-- A register read is no draw while idle, and never outside the result registers (70_reset_and_hazards.md R97). -/
theorem busReadReg_eq_readReg (c : Config) {s : State} {o : Nat} {r : Reg} (hr : regAt o = some r)
    (h : s.pending = none ∨ o < 0x010 ∨ 0x02C ≤ o) : s.busReadReg c r = s.readReg r := by
  rcases h with hidle | hother
  · rw [State.busReadReg_idle c hidle]
  · have ho := offset_of_regAt hr
    have hres : r.isResult = false := by
      rw [← Bool.not_eq_true, Reg.isResult_iff]
      omega
    simp [State.busReadReg, hres]

/-- Two states that show the host the same registers and buffers, and differ in the model's own fields alone. -/
def State.SameUnit (s t : State) : Prop := t = { s with agenda := t.agenda, responses := t.responses, draws := t.draws }

/-- New values of the model's own fields make no other unit. -/
theorem State.sameUnit_with (s : State) (agenda : List Event) (responses : List Response) (draws : Nat) :
    s.SameUnit { s with agenda := agenda, responses := responses, draws := draws } := rfl

/-- The read returns no draw: no result register and no OUT_BUF while BUSY, and no OUT_BUF byte that has no defined value
(20_memory.md R37, 70_reset_and_hazards.md R97). -/
structure State.ReadsNoDraw (c : Config) (s : State) (a : Access) : Prop where
  reg : s.pending = none ∨ a.addr.toNat < 0x010 ∨ 0x02C ≤ a.addr.toNat
  out : regionOf c a.addr.toNat = .outBuf → ∀ k, k < 4 → (k = 0 ∨ a.size = .word) →
    (s.outByte (a.addr.toNat - outBase + k)).isSome = true

/-- Read data that is no draw does not depend on the model's own fields. -/
theorem busRead_eq_of_sameUnit {c : Config} {a : Access} {s t : State} (h : s.SameUnit t) (hs : s.ReadsNoDraw c a) :
    busRead c a t = busRead c a s := by
  cases hr : regionOf c a.addr.toNat with
  | reg =>
    rw [busRead_reg t hr, busRead_reg s hr]
    cases hg : regAt a.addr.toNat with
    | none => rfl
    | some r =>
      have hreg : t.pending = none ∨ a.addr.toNat < 0x010 ∨ 0x02C ≤ a.addr.toNat := by rw [h]; exact hs.reg
      simp only [Option.elim_some, busReadReg_eq_readReg c hg hs.reg, busReadReg_eq_readReg c hg hreg]
      rw [h]
      rfl
  | inBuf =>
    rw [busRead_inBuf t hr, busRead_inBuf s hr, State.inByte_congr c s t (by rw [h]) (by rw [h])]
  | outBuf =>
    rw [busRead_outBuf t hr, busRead_outBuf s hr]
    refine readLanes_congr a.size fun k hk hlane => ?_
    obtain ⟨b, hb⟩ := Option.isSome_iff_exists.mp (hs.out hr k hk hlane)
    have ht : t.outByte (a.addr.toNat - outBase + k) = some b := by rw [h]; exact hb
    rw [State.busOutByte_of_defined hb, State.busOutByte_of_defined ht]
  | unmapped => simp only [busRead, hr]

/-- A read that returns no draw has one answer, whatever the model's own fields hold. -/
theorem busAccess_read_answer {c : Config} {a : Access} {s : State} (hk : a.kind = .read)
    (hs : accessError c a = false → s.ReadsNoDraw c a) :
    ∃ r, ∀ t, s.SameUnit t → busAccess c a t = t.respond r := by
  cases he : accessError c a with
  | true => exact ⟨_, fun t _ => busAccess_error t he⟩
  | false => exact ⟨_, fun t ht => by rw [busAccess_read t he hk, busRead_eq_of_sameUnit ht (hs he)]⟩

/-- The first event of the agenda is the next one. -/
theorem nextEvent_cons {s : State} {e : Event} {rest : List Event} (h : s.agenda = e :: rest) :
    nextEvent s = (e, { s with agenda := rest }) := by
  simp only [nextEvent, h]

/-- Settles O47: both reads meet the unit in the same state, so they get the one answer. -/
theorem repeatedReadsAgree : Obligations.RepeatedReadsAgree := by
  intro s u a rest hagenda hk hreg hout hstep
  have hdraw (hok : accessError Config.unit a = false) : s.ReadsNoDraw Config.unit a :=
    { reg := hreg.imp_right (Or.imp_right And.left)
      out := fun hr k hk4 hlane => hout k hk4 hlane ((regionOf_outBuf_iff _ _).mp hr).1 hok }
  obtain ⟨r, hr⟩ := busAccess_read_answer hk hdraw
  obtain ⟨hu, -⟩ := eq_busAccess_of_step (nextEvent_cons hagenda) hstep
  rw [hr _ (s.sameUnit_with _ _ _)] at hu
  subst hu
  have hsecond := hr _ (s.sameUnit_with rest (r :: s.responses) (s.draws + 1))
  exact ⟨r, rfl, (step_of_access (nextEvent_cons rfl)).1.trans (congrArg Host.Outcome.next hsecond)⟩

end Sys2Proof.Machine
end

section
/-! PROOFS. The command word (30_encoding.md R53 to R55): the decoder as ranges of the word, and what an illegal word
completes with. -/

namespace Sys2Proof.Machine

/-- The decoder reads the word as one number: any bit above bit 3 puts it at 16 or more. -/
theorem decodeWord_eq (w : Word) :
    decodeWord w =
      if 16 ≤ w.toNat then .error .reservedBits
      else if w.toNat = 1 then .ok .encode
      else if w.toNat = 2 then .ok .decode
      else if w.toNat = 3 then .ok .checksum
      else .error .undefinedOp := by
  by_cases h : w.toNat < 16
  · have hz := (splitWord_reservedClear w).mpr h
    simp [decodeWord, hz, splitWord_op, Nat.not_le.mpr h, Nat.mod_eq_of_lt h]
  · have hz := Bool.eq_false_iff.mpr (mt (splitWord_reservedClear w).mp h)
    simp [decodeWord, hz, Nat.le_of_not_lt h]

/-- Decoding a command's word gives the command back (30_encoding.md R54). -/
theorem decodeWord_encodeWord (i : Instr) : decodeWord (encodeWord i) = .ok i := by
  cases i <;> rfl

/-- No other word decodes to a command: each branch that gives one fixes the whole word (30_encoding.md R54). -/
theorem eq_encodeWord_of_decodeWord {w : Word} {i : Instr} (h : decodeWord w = .ok i) : w = encodeWord i := by
  rw [decodeWord_eq] at h
  split_ifs at h with _ hencode hdecode hchecksum <;> cases h
  · exact BitVec.eq_of_toNat_eq hencode
  · exact BitVec.eq_of_toNat_eq hdecode
  · exact BitVec.eq_of_toNat_eq hchecksum

/-- Settles O4: the decoder is the inverse of the encoder. -/
theorem wordSelectsCommandExactly : Obligations.WordSelectsCommandExactly :=
  ⟨fun _ i => ⟨eq_encodeWord_of_decodeWord, fun h => h ▸ decodeWord_encodeWord i⟩, rfl, rfl, rfl⟩

/-- Settles O5: the two rejections are the first and the last branch of the decoder. -/
theorem illegalWordsRejectedByName : Obligations.IllegalWordsRejectedByName := by
  intro w
  rw [decodeWord_eq]
  by_cases h16 : 16 ≤ w.toNat
  · simp [h16]
    omega
  · simp only [h16, if_false, iff_false]
    split_ifs <;> simp <;> omega

/-- Settles O3: the round trip for the three commands, the ranges of O5 for the illegal words. -/
theorem opcodeMapWordsDecode : Obligations.OpcodeMapWordsDecode := by
  have hop (w : Word) := (illegalWordsRejectedByName w).2
  have hbits (w : Word) := (illegalWordsRejectedByName w).1
  exact ⟨decodeWord_encodeWord .encode, decodeWord_encodeWord .decode, decodeWord_encodeWord .checksum,
    (hop _).mpr (by decide), (hop _).mpr (by decide), (hbits _).mpr (by decide), (hbits _).mpr (by decide)⟩

/-- A word that is none of the opcode map's decodes to no command (30_encoding.md R55). -/
theorem decodeWord_illegal {w : Word} (h1 : w ≠ 0x1) (h2 : w ≠ 0x2) (h3 : w ≠ 0x3) : ∃ e, decodeWord w = .error e := by
  cases hd : decodeWord w with
  | error e => exact ⟨e, rfl⟩
  | ok i =>
    have hw := eq_encodeWord_of_decodeWord hd
    cases i with
    | encode => exact absurd hw h1
    | decode => exact absurd hw h2
    | checksum => exact absurd hw h3

/-- When the unit's turn comes with a command pending, the step records that command's completion (70_reset_and_hazards.md R94). -/
theorem step_of_complete {s u : State} {p : Pending} (h : nextEvent s = (.complete, u)) (hp : s.pending = some p) :
    step s = .next (u.complete (completion Config.unit p)) := by
  have hu : u.pending = some p := by rw [← hp, ← nextEvent_pending s, h]
  rw [step_eq, h]
  simp only [eventStep, hu]

/-- What an illegal word's completion writes: code 7, the word in ERR_ACT, and 0 elsewhere (60_exceptions.md R81, R82). -/
theorem State.complete_illegalResults (w : Word) (s : State) :
    s.complete (illegalResults w) = (s.completedPlain 0).failedWith .illegalCmd false 0 w := rfl

/-- Settles O17: the word decodes to no command, so its completion is code 7 whatever the snapshot holds. -/
theorem illegalWordCompletesWithCode7 : Obligations.IllegalWordCompletesWithCode7 := by
  intro s u p hnext hp h1 h2 h3
  obtain ⟨e, he⟩ := decodeWord_illegal h1 h2 h3
  rw [step_of_complete hnext hp, completion_error _ _ _ he, State.complete_illegalResults]

end Sys2Proof.Machine
end

section
/-! PROOFS. The host script's PUT (30_encoding.md R57): one byte write per statement, so one `Memory.writeBytes` in all. -/

namespace Sys2Proof.Machine

/-- The index an `IN+i` address names: no wrap below `IN_CAP`. -/
theorem inAddr_toNat {c : Config} {i : Nat} (h : i < c.inCap) : (inAddr i).toNat = inBase + i := by
  have := Config.inCap_bounds c
  exact Nat.mod_eq_of_lt (by simp only [inBase]; omega)

/-- The state after one byte of InBuf is written over the bus and the write is answered OKAY. -/
def State.putByte (s : State) (i : Nat) (b : Byte) : State :=
  State.respond ⟨.okay, 0⟩ { s with inBuf := Memory.write s.inBuf i b }

/-- `W8 IN+i, b` on an idle unit stores the byte at index `i` (20_memory.md R36). -/
theorem busAccess_w8_inAddr {c : Config} {i : Nat} {s : State} (b : Byte) (hi : i < c.inCap) (hidle : s.pending = none) :
    busAccess c (memWrite (inAddr i) .byte (b.setWidth 32)) s = s.putByte i b := by
  have haddr := inAddr_toNat hi
  have hreg : regionOf c (inAddr i).toNat = .inBuf := (regionOf_inBuf_iff c _).mpr (by omega)
  have hok : accessError c (memWrite (inAddr i) .byte (b.setWidth 32)) = false := (accessError_byte_iff c _ _ _).mpr (.inl hreg)
  have hlanes : writeLanes .byte (b.setWidth 32) = [b] := by
    rw [writeLanes, BitVec.extractLsb'_setWidth_of_le (by decide), BitVec.extractLsb'_eq_self]
  rw [busAccess_write s hok rfl, busWrite_inBuf hreg hidle]
  simp only [memWrite, haddr, hlanes, Nat.add_sub_cancel_left, Memory.writeBytes, State.putByte]

/-- A host at a `W8` makes that write and goes on to the next statement. -/
theorem scriptStep_w8 (c : Config) {prog : Script} {h : ScriptState} {addr v : Word} (hst : prog[h.pc]? = some (.w8 addr v)) :
    scriptStep c prog h = some { h with pc := h.pc + 1, unit := busAccess c (memWrite addr .byte v) h.unit } := by
  simp only [scriptStep, hst]

/-- A host at the statements of PUT, in a script of any length, runs through them to the statement after: on an idle unit they
store the bytes in InBuf. -/
theorem scriptRun_putStmts (c : Config) (prog : Script) (vars : List (Nat × Word)) (bytes : ByteSeq) (pc i : Nat) (s : State)
    (hprog : putStmts i bytes <+: prog.drop pc) (hidle : s.pending = none) (hfit : i + bytes.length ≤ c.inCap) :
    let h := scriptRun c prog (List.replicate bytes.length true) ⟨pc, vars, s⟩
    h.pc = pc + bytes.length ∧ h.unit.pending = none ∧ h.unit.inDraw = s.inDraw ∧
      h.unit.inBuf = Memory.writeBytes s.inBuf i bytes := by
  induction bytes generalizing pc i s with
  | nil => exact ⟨rfl, hidle, rfl, rfl⟩
  | cons b bs ih =>
    rw [List.length_cons] at hfit
    obtain ⟨rest, hdrop⟩ := hprog
    have hst : prog[pc]? = some (.w8 (inAddr i) (b.setWidth 32)) := by
      rw [← Nat.add_zero pc, ← List.getElem?_drop, ← hdrop]; rfl
    have htail : putStmts (i + 1) bs <+: prog.drop (pc + 1) :=
      ⟨rest, by rw [← List.drop_drop, ← hdrop]; rfl⟩
    have hstep : scriptStep c prog ⟨pc, vars, s⟩ = some ⟨pc + 1, vars, s.putByte i b⟩ :=
      (scriptStep_w8 c hst).trans (by rw [busAccess_w8_inAddr b (by omega) hidle])
    obtain ⟨hpc, hpend, hdraw, hbuf⟩ := ih (pc + 1) (i + 1) (s.putByte i b) htail hidle (by omega)
    simp only [List.length_cons, List.replicate_succ, scriptRun, hstep, Option.getD_some]
    exact ⟨by omega, hpend, hdraw, hbuf⟩

/-- Settles O60: the run of the expansion stores the bytes, and a stored byte is read where it was stored. -/
theorem putStatementFillsInput : Obligations.PutStatementFillsInput := by
  intro c i bytes vars s hidle hfit h
  obtain ⟨hpc, hpend, hdraw, hbuf⟩ :=
    scriptRun_putStmts c (putStmts i bytes) vars bytes 0 i s (List.prefix_refl _) hidle hfit
  refine ⟨hpc.trans (Nat.zero_add _), hpend, fun j => ?_⟩
  have hbyte : h.unit.inByte c j = (Memory.read (Memory.writeBytes s.inBuf i bytes) j).getD (c.inBufDraw s.inDraw j) := by
    rw [← hbuf, ← hdraw]; rfl
  rw [hbyte, Memory.read_writeBytes]
  split
  next hj => rw [List.getElem?_eq_getElem (by omega)]; rfl
  next => rfl

end Sys2Proof.Machine
end

section
/-! PROOFS. The fields a header is packed from and read back into (40_header_encoder.md R58 to R60). -/

namespace Sys2Proof.Machine

/-! ### The versions byte -/

/-- The versions byte is its three fields, side by side (30_encoding.md R48). -/
theorem packVersions_eq_append (v : Versions) : packVersions v = v.fver ++ v.comp ++ v.nc := by
  apply BitVec.eq_of_getLsbD_eq
  intro i hi
  simp only [packVersions, BitVec.getLsbD_or, BitVec.getLsbD_shiftLeft, BitVec.getLsbD_setWidth, BitVec.getLsbD_append]
  interval_cases i <;> simp

/-- Bits 7:4, 3:2 and 1:0 of the packed byte are the fields. -/
theorem packVersions_fields (v : Versions) :
    (packVersions v).extractLsb' 4 4 = v.fver ∧ (packVersions v).extractLsb' 2 2 = v.comp ∧
      (packVersions v).extractLsb' 0 2 = v.nc := by
  simp (disch := decide) only [packVersions_eq_append, BitVec.extractLsb'_append_eq_of_le,
    BitVec.extractLsb'_append_eq_of_add_le, Nat.reduceSub, BitVec.extractLsb'_eq_self, and_self]

/-- Unpacking undoes packing (41_header_decoder.md R65). -/
theorem unpackVersions_packVersions : Function.LeftInverse unpackVersions packVersions := by
  intro v
  obtain ⟨hfver, hcomp, hnc⟩ := packVersions_fields v
  rw [unpackVersions_eq, hfver, hcomp, hnc]

/-- Settles O21: the fields stand at their bits, so the byte gives them back. -/
theorem packVersionsPlacesFields : Obligations.PackVersionsPlacesFields :=
  ⟨packVersions_fields, fun _ _ h => unpackVersions_packVersions.injective h, by decide, by decide⟩

/-! ### The length field -/

/-- `be32` of four bytes side by side lists them. -/
theorem be32_append (b0 b1 b2 b3 : Byte) : be32 (b0 ++ b1 ++ b2 ++ b3) = [b0, b1, b2, b3] := by
  simp (disch := decide) only [be32, BitVec.extractLsb'_append_eq_of_le, BitVec.extractLsb'_append_eq_of_add_le,
    Nat.reduceSub, BitVec.extractLsb'_eq_self]

/-- Reading the four bytes of a number gives the number (41_header_decoder.md R68). -/
theorem be32Read_extract (n : Word) :
    be32Read (n.extractLsb' 24 8) (n.extractLsb' 16 8) (n.extractLsb' 8 8) (n.extractLsb' 0 8) = n := by
  apply BitVec.eq_of_toNat_eq
  simp only [be32Read_toNat, BitVec.extractLsb'_toNat, Nat.shiftRight_eq_div_pow]
  omega

/-- Settles O23: both round trips go through the four bytes side by side. -/
theorem lengthFieldRoundTrip : Obligations.LengthFieldRoundTrip := by
  refine ⟨fun n => ⟨_, _, _, _, rfl, be32Read_extract n, ?_⟩, fun b0 b1 b2 b3 => ?_⟩
  · rw [← be32Read_toNat, be32Read_extract]
  · rw [be32Read_eq_append, be32_append]

/-! ### The header -/

/-- The length `decode` reads from a header is the one it declares. -/
theorem Header.length_toNat (h : Header) : h.length.toNat = h.declared := be32Read_toNat _ _ _ _

/-- The versions byte of a payload's header: version 0 and no algorithm (30_encoding.md R49). -/
theorem headerOf_vers (c : Config) (p : ByteSeq) : (headerOf c p).vers = 0x00 := rfl

/-- The header of a payload declares its length. -/
theorem headerOf_declared (c : Config) {p : ByteSeq} (hp : p.length ≤ maxPayload) : (headerOf c p).declared = p.length := by
  rw [← Header.length_toNat]
  simp only [Header.length, headerOf, be32Read_extract]
  exact Nat.mod_eq_of_lt (Nat.lt_of_le_pred (by decide) hp)

/-- Settles O25: the header is the record `headerOf`, which is made from the length and the checksum. -/
theorem encodedHeaderShape : Obligations.EncodedHeaderShape := by
  refine ⟨fun c p hp => ⟨headerOf c p, encodeHeader_eq c p, rfl, headerOf_vers c p, headerOf_declared c hp, rfl⟩,
    fun c p q hlen hck => ?_⟩
  simp only [encodeHeader, hlen, hck]

end Sys2Proof.Machine
end

section
/-! PROOFS. The abstract encode, and decode as its inverse (40_header_encoder.md R61, 41_header_decoder.md R71). -/

namespace Sys2Proof.Machine

/-- The header of a payload whose length fits makes a valid container of it (30_encoding.md R52). -/
theorem headerOf_validFor (c : Config) {p : ByteSeq} (hp : p.length ≤ maxPayload) : (headerOf c p).ValidFor c p where
  signature := fun _ => rfl
  compression := by rw [headerOf_vers]; rfl
  noiseCancellation := by rw [headerOf_vers]; rfl
  length := headerOf_declared c hp
  checksum := ⟨congrArg Prod.fst (cs2_eq c p), congrArg Prod.snd (cs2_eq c p)⟩

/-- A valid container passes every check before the checksum. -/
theorem checkHeader_of_validFor {c : Config} {h : Header} {p : ByteSeq} (hv : h.ValidFor c p) :
    checkHeader c (h.bytes ++ p) = .ok (h, p) := by
  have hsig : ¬ (c.sigCheck && h.sig != signatureByte) = true := by
    simp +contextual [hv.signature, signatureByte]
  have hlen : p.length = h.length.toNat := by rw [h.length_toNat, hv.length]
  have hcomp : (unpackVersions h.vers).comp = compNone := by rw [unpackVersions_eq]; exact hv.compression
  have hnc : (unpackVersions h.vers).nc = ncNone := by rw [unpackVersions_eq]; exact hv.noiseCancellation
  rw [checkHeader_eq, if_neg hsig, if_neg (not_not.mpr hcomp), if_neg (not_not.mpr hnc), if_neg (not_not.mpr hlen)]

/-- `decode` answers the payload of a valid container. -/
theorem decodeContainer_of_validFor {c : Config} {h : Header} {p : ByteSeq} (hv : h.ValidFor c p) :
    decodeContainer c (h.bytes ++ p) = .ok p := by
  obtain ⟨h0, h1⟩ := hv.checksum
  have hck : cs2 c p = h.stored := by rw [cs2_eq, ← h0, ← h1, Header.stored]
  rw [decodeContainer_eq, checkHeader_of_validFor hv]
  exact if_neg (not_not.mpr hck)

/-- Settles O26: the two branches of `encode`. -/
theorem encodeSucceedsExactlyWhenLengthFits : Obligations.EncodeSucceedsExactlyWhenLengthFits := by
  refine fun c p => ⟨fun hfit => ⟨_, encodeContainer_ok c p hfit, rfl, rfl, ?_⟩,
    fun hlong => ⟨_, if_pos hlong, rfl, rfl, rfl, rfl, rfl⟩⟩
  rw [List.length_append, encodeHeader_length, Nat.add_comm]

/-- Settles O27: `encode` puts the payload's valid header before it. -/
theorem containerRoundTrip : Obligations.ContainerRoundTrip :=
  fun c p hp => ⟨_, encodeContainer_ok c p hp, decodeContainer_of_validFor (headerOf_validFor c hp)⟩

end Sys2Proof.Machine
end

section
/-! PROOFS. The ENCODE command, and DECODE of its output (40_header_encoder.md R62, 41_header_decoder.md R72). -/

namespace Sys2Proof.Machine

/-! ### What the two commands compute when they succeed -/

/-- An input that fits passes the length check of 60_exceptions.md R80. -/
theorem checkInLen_of_le {c : Config} {x : Input} (h : x.len.toNat ≤ c.inCap) (r : Results) : checkInLen c x r = r :=
  if_neg (Nat.not_lt.mpr h)

/-- ENCODE of an input that fits: the container of its bytes and their checksum. -/
theorem encodeResults_of_fits {c : Config} {x : Input} (hlen : x.len.toNat ≤ c.inCap) (hdata : x.data.length ≤ maxPayload) :
    encodeResults c x = .success (cs16 c x.data) none (.bytes ((headerOf c x.data).bytes ++ x.data)) := by
  simp only [encodeResults, checkInLen_of_le hlen, encodeContainer_ok c x.data hdata, encodeHeader_eq]

/-- DECODE of an input that is a valid container: its payload, its header and the payload's checksum. -/
theorem decodeResults_of_validFor {c : Config} {x : Input} {h : Header} {p : ByteSeq} (hlen : x.len.toNat ≤ c.inCap)
    (hdata : x.data = h.bytes ++ p) (hv : h.ValidFor c p) :
    decodeResults c x = .success (cs16 c p) (some h) (.bytes p) := by
  simp only [decodeResults, checkInLen_of_le hlen, hdata, decodeContainer_of_validFor hv, decodeCksum,
    checkHeader_of_validFor hv, parsedHeader_bytes]

/-- The checksum's register image is the digest's first two bytes side by side (42_checksum_unit.md R74, R75). -/
theorem cs16_eq (c : Config) (p : ByteSeq) : cs16 c p = c.digestByte p 0 ++ c.digestByte p 1 := by
  rw [cs16, pair16_eq_append, cs2_eq]

/-! ### What such a completion leaves -/

/-- A success that parsed no header and has a result: CKSUM, OUT_LEN and OutBuf, and 0 elsewhere. -/
theorem State.complete_success_plain (s : State) (ck : Half) (r : ByteSeq) :
    s.complete (.success ck none (.bytes r)) =
      (s.completedPlain ck).succeededWith (BitVec.ofNat 32 r.length) (Memory.ofBytes 0 r) := rfl

/-- After a success OutBuf's defined bytes are the result, if OUT_LEN can hold its length. -/
theorem State.complete_success_outByte (s : State) (ck : Half) (header : Option Header) {r : ByteSeq} (hr : r.length < 2 ^ 32)
    (j : Nat) : (s.complete (.success ck header (.bytes r))).outByte j = r[j]? := by
  have hlen : (BitVec.ofNat 32 r.length).toNat = r.length := Nat.mod_eq_of_lt hr
  simp only [State.complete_outByte, Results.success, OutResult.length, OutResult.memory, hlen, Memory.read_ofBytes_zero]
  split
  next => rfl
  next h => exact (List.getElem?_eq_none (Nat.le_of_not_lt h)).symm

/-- An input that fits InBuf leaves room for the header in the length registers (00_scope.md R2, R3). -/
theorem Input.data_length_lt {c : Config} {x : Input} (hlen : x.len.toNat ≤ c.inCap) (hdata : x.data.length = x.len.toNat) :
    x.data.length + 8 < 2 ^ 32 := by
  have hcap := Config.inCap_bounds c
  omega

/-- An input that fits InBuf is no longer than a payload may be. -/
theorem Input.data_length_le_maxPayload {c : Config} {x : Input} (hlen : x.len.toNat ≤ c.inCap)
    (hdata : x.data.length = x.len.toNat) : x.data.length ≤ maxPayload := by
  have hroom := Input.data_length_lt hlen hdata
  unfold maxPayload
  omega

/-- ENCODE on an input that fits: it completes with the container of the input. -/
theorem exec_encode_of_fits {s : State} (hlen : (s.input Config.unit).len.toNat ≤ Config.unit.inCap)
    (hdata : (s.input Config.unit).data.length = (s.input Config.unit).len.toNat) :
    let p := (s.input Config.unit).data
    exec .encode s =
      .next (s.complete (.success (cs16 Config.unit p) none (.bytes ((headerOf Config.unit p).bytes ++ p)))) := by
  rw [exec_eq, commandResults, encodeResults_of_fits hlen (Input.data_length_le_maxPayload hlen hdata)]

/-- DECODE on a valid container. -/
theorem exec_decode_of_validFor {s : State} {h : Header} {p : ByteSeq}
    (hlen : (s.input Config.unit).len.toNat ≤ Config.unit.inCap) (hdata : (s.input Config.unit).data = h.bytes ++ p)
    (hv : h.ValidFor Config.unit p) :
    exec .decode s = .next (s.complete (.success (cs16 Config.unit p) (some h) (.bytes p))) := by
  rw [exec_eq, commandResults, decodeResults_of_validFor hlen hdata hv]

/-- Settles O7: the completion with the container of the input. -/
theorem encodeWritesContainer : Obligations.EncodeWritesContainer := by
  intro s hlen hdata p n d0 d1 container
  have hroom : p.length + 8 < 2 ^ 32 := Input.data_length_lt hlen hdata
  have hcont : (headerOf Config.unit p).bytes ++ p = container := by simp only [headerOf, cs2_eq]; rfl
  have hexec : exec .encode s = .next (s.complete (.success (cs16 Config.unit p) none (.bytes container))) :=
    hcont ▸ exec_encode_of_fits hlen hdata
  refine ⟨_, hexec, ?_, State.complete_success_outByte s _ none hroom, Nat.mod_eq_of_lt hroom⟩
  rw [State.complete_success_plain, cs16_eq]
  rfl

/-- Settles O20: the input of the DECODE is the container that ENCODE wrote, which is valid. -/
theorem encodeThenDecodeReturnsPayload : Obligations.EncodeThenDecodeReturnsPayload := by
  intro s t u hlen hdata hencode hulen hufit hudata
  have hroom := Input.data_length_lt hlen hdata
  have hfit := Input.data_length_le_maxPayload hlen hdata
  rw [exec_encode_of_fits hlen hdata] at hencode
  cases hencode
  have hcontainer : (u.input Config.unit).data =
      (headerOf Config.unit (s.input Config.unit).data).bytes ++ (s.input Config.unit).data := by
    refine List.ext_getElem? fun j => ?_
    rw [hudata j, State.complete_success_outByte]
    rwa [List.length_append, Header.bytes_length, Nat.add_comm]
  refine ⟨_, exec_decode_of_validFor (hulen ▸ hufit) hcontainer (headerOf_validFor Config.unit hfit), rfl, ?_, ?_⟩
  · show BitVec.ofNat 32 (s.input Config.unit).data.length = _
    rw [hdata, BitVec.ofNat_toNat, BitVec.setWidth_eq]
  · exact State.complete_success_outByte u _ _ (by omega)

end Sys2Proof.Machine
end

section
/-! PROOFS. The stages of `decode` before the checksum (41_header_decoder.md R63 to R69): which headers pass them all, and with what
error each stage stops one. -/

namespace Sys2Proof.Machine

/-! ### The fields the stages read -/

/-- The low four bits of the versions byte are the two algorithm ids, side by side (30_encoding.md R48). -/
theorem algorithmBits_eq_append (v : Byte) : v.extractLsb' 0 4 = v.extractLsb' 2 2 ++ v.extractLsb' 0 2 :=
  (BitVec.extractLsb'_append_extractLsb'_eq_extractLsb' (len₁ := 2) (len₂ := 2) rfl).symm

/-- Two versions bytes agree on the low four bits exactly when they agree on both algorithm ids. -/
theorem algorithmBits_eq_iff (v w : Byte) :
    v.extractLsb' 0 4 = w.extractLsb' 0 4 ↔
      v.extractLsb' 2 2 = w.extractLsb' 2 2 ∧ v.extractLsb' 0 2 = w.extractLsb' 0 2 := by
  constructor
  · intro h
    constructor
    · rw [← BitVec.extractLsb'_extractLsb'_of_le (x := v) (len' := 4) (by decide), h,
        BitVec.extractLsb'_extractLsb'_of_le (by decide)]
    · rw [← BitVec.extractLsb'_extractLsb'_of_le (x := v) (len' := 4) (by decide), h,
        BitVec.extractLsb'_extractLsb'_of_le (by decide)]
  · rintro ⟨hcomp, hnc⟩
    rw [algorithmBits_eq_append, hcomp, hnc, ← algorithmBits_eq_append]

/-- The low four bits are 0 exactly when both algorithm ids are. -/
theorem algorithmBits_eq_zero_iff (v : Byte) :
    v.extractLsb' 0 4 = 0 ↔ v.extractLsb' 2 2 = 0 ∧ v.extractLsb' 0 2 = 0 := algorithmBits_eq_iff v 0

/-- Packing the fields of a versions byte gives the byte back (R65). -/
theorem packVersions_unpackVersions (b : Byte) : packVersions (unpackVersions b) = b := by
  have hhigh : b.extractLsb' 4 4 ++ b.extractLsb' 2 2 = b.extractLsb' 2 6 :=
    BitVec.extractLsb'_append_extractLsb'_eq_extractLsb' (len₁ := 2) (len₂ := 4) rfl
  have hall : b.extractLsb' 2 6 ++ b.extractLsb' 0 2 = b.extractLsb' 0 8 :=
    BitVec.extractLsb'_append_extractLsb'_eq_extractLsb' (len₁ := 2) (len₂ := 6) rfl
  rw [unpackVersions_eq, packVersions_eq_append, hhigh, hall, BitVec.extractLsb'_eq_self]

/-- Settles O22: the bit places, the two inverses, and the rule's examples. -/
theorem unpackVersionsInvertsPack : Obligations.UnpackVersionsInvertsPack :=
  ⟨unpackVersions_eq, unpackVersions_packVersions, packVersions_unpackVersions, by decide, by decide, by decide⟩

/-- DEC_LEN's value is the declared length. -/
theorem Header.length_eq_ofNat (h : Header) : h.length = BitVec.ofNat 32 h.declared := by
  rw [← h.length_toNat, BitVec.ofNat_toNat, BitVec.setWidth_eq]

/-- DEC_CKSUM's value is the stored bytes side by side. -/
theorem Header.pair16_stored (h : Header) : pair16 h.stored = h.ck0 ++ h.ck1 := pair16_eq_append _

/-! ### Passing the stages -/

/-- A header passes every stage of `decode` before the checksum: conditions (b) to (d) of 30_encoding.md R52, (b) only when
`SIG_CHECK`. -/
structure Header.PassesFor (c : Config) (h : Header) (cand : ByteSeq) : Prop where
  signature : c.sigCheck = true → h.sig = 0x8F
  compression : h.vers.extractLsb' 2 2 = 0
  noiseCancellation : h.vers.extractLsb' 0 2 = 0
  length : h.declared = cand.length

/-- A valid container is one that passes those stages and whose stored checksum is the candidate's. -/
theorem Header.validFor_iff (c : Config) (h : Header) (cand : ByteSeq) :
    h.ValidFor c cand ↔ h.PassesFor c cand ∧ cs2 c cand = h.stored := by
  rw [cs2_eq, Header.stored, Prod.mk.injEq]
  constructor
  · rintro ⟨hsig, hcomp, hnc, hlen, hck0, hck1⟩
    exact ⟨⟨hsig, hcomp, hnc, hlen⟩, hck0.symm, hck1.symm⟩
  · rintro ⟨⟨hsig, hcomp, hnc, hlen⟩, hck0, hck1⟩
    exact ⟨hsig, hcomp, hnc, hlen, hck0.symm, hck1.symm⟩

/-- `checkHeader_eq` in the terms of the fields: the first stage that does not pass decides. -/
theorem checkHeader_bytes (c : Config) (h : Header) (cand : ByteSeq) :
    checkHeader c (h.bytes ++ cand) =
      if ¬ (c.sigCheck = true → h.sig = 0x8F) then .error (.signatureError h.sig)
      else if h.vers.extractLsb' 2 2 ≠ 0 then .error (.unsupportedAlgorithm .compression (h.vers.extractLsb' 2 2))
      else if h.vers.extractLsb' 0 2 ≠ 0 then .error (.unsupportedAlgorithm .noiseCancellation (h.vers.extractLsb' 0 2))
      else if h.declared ≠ cand.length then .error (.lengthMismatch h.length cand.length)
      else .ok (h, cand) := by
  have hsig : (c.sigCheck && h.sig != signatureByte) = true ↔ ¬ (c.sigCheck = true → h.sig = 0x8F) := by
    simp [signatureByte]
  simp only [checkHeader_eq, unpackVersions_eq, h.length_toNat, hsig, ne_comm (a := cand.length), compNone, ncNone]

/-- The stages answer a header and a candidate exactly when the bytes are these two and the header passes. -/
theorem checkHeader_eq_ok_iff (c : Config) (bytes : ByteSeq) (h : Header) (cand : ByteSeq) :
    checkHeader c bytes = .ok (h, cand) ↔ bytes = h.bytes ++ cand ∧ h.PassesFor c cand := by
  constructor
  · intro hok
    rcases Nat.lt_or_ge bytes.length 8 with hshort | hlong
    · rw [checkHeader_short c bytes hshort] at hok
      cases hok
    · obtain ⟨g, q, rfl⟩ := header_of_length bytes hlong
      rw [checkHeader_bytes] at hok
      split_ifs at hok with hsig hcomp hnc hlen
      cases hok
      exact ⟨rfl, hsig, not_not.mp hcomp, not_not.mp hnc, not_not.mp hlen⟩
  · rintro ⟨rfl, hsig, hcomp, hnc, hlen⟩
    rw [checkHeader_bytes, if_neg (not_not.mpr hsig), if_neg (not_not.mpr hcomp), if_neg (not_not.mpr hnc),
      if_neg (not_not.mpr hlen)]

/-! ### Stopping at a stage -/

section
variable {c : Config} {h : Header} {cand : ByteSeq}

/-- Code 5 (R64). -/
theorem checkHeader_wrongSignature (hcheck : c.sigCheck = true) (hsig : h.sig ≠ 0x8F) :
    checkHeader c (h.bytes ++ cand) = .error (.signatureError h.sig) := by
  rw [checkHeader_bytes, if_pos (fun hpass => hsig (hpass hcheck))]

/-- Code 2, compression first (R67). -/
theorem checkHeader_compression (hsig : c.sigCheck = true → h.sig = 0x8F) (hcomp : h.vers.extractLsb' 2 2 ≠ 0) :
    checkHeader c (h.bytes ++ cand) = .error (.unsupportedAlgorithm .compression (h.vers.extractLsb' 2 2)) := by
  rw [checkHeader_bytes, if_neg (not_not.mpr hsig), if_pos hcomp]

/-- Code 2, then noise cancellation (R67). -/
theorem checkHeader_noiseCancellation (hsig : c.sigCheck = true → h.sig = 0x8F) (hcomp : h.vers.extractLsb' 2 2 = 0)
    (hnc : h.vers.extractLsb' 0 2 ≠ 0) :
    checkHeader c (h.bytes ++ cand) = .error (.unsupportedAlgorithm .noiseCancellation (h.vers.extractLsb' 0 2)) := by
  rw [checkHeader_bytes, if_neg (not_not.mpr hsig), if_neg (not_not.mpr hcomp), if_pos hnc]

/-- Code 3 (R69). -/
theorem checkHeader_lengthMismatch (hsig : c.sigCheck = true → h.sig = 0x8F) (hcomp : h.vers.extractLsb' 2 2 = 0)
    (hnc : h.vers.extractLsb' 0 2 = 0) (hlen : h.declared ≠ cand.length) :
    checkHeader c (h.bytes ++ cand) = .error (.lengthMismatch h.length cand.length) := by
  rw [checkHeader_bytes, if_neg (not_not.mpr hsig), if_neg (not_not.mpr hcomp), if_neg (not_not.mpr hnc), if_pos hlen]

end

end Sys2Proof.Machine
end

section
/-! PROOFS. The abstract decode (41_header_decoder.md R71): which containers it accepts, and what a change to one field of a container
does to its answer. -/

namespace Sys2Proof.Machine

/-- `decode` answers a payload exactly when some header passed for it and stores its checksum. -/
theorem decodeContainer_eq_ok_iff (c : Config) (bytes payload : ByteSeq) :
    decodeContainer c bytes = .ok payload ↔
      ∃ h : Header, checkHeader c bytes = .ok (h, payload) ∧ cs2 c payload = h.stored := by
  rw [decodeContainer_eq]
  cases checkHeader c bytes with
  | error e => simp
  | ok parsed =>
    obtain ⟨h, cand⟩ := parsed
    constructor
    · intro hok
      dsimp only at hok
      split_ifs at hok with hck
      cases hok
      exact ⟨h, rfl, not_not.mp hck⟩
    · rintro ⟨g, hg, hck⟩
      cases hg
      exact if_neg (not_not.mpr hck)

/-- Settles O28: the stages and the checksum are the conditions of a valid container. -/
theorem decodeSucceedsExactlyOnValid : Obligations.DecodeSucceedsExactlyOnValid := by
  intro c bytes payload
  simp only [decodeContainer_eq_ok_iff, checkHeader_eq_ok_iff, Header.validFor_iff, and_assoc]

/-- A container has one header. -/
theorem Header.bytes_append_inj {g h : Header} {p q : ByteSeq} (heq : g.bytes ++ p = h.bytes ++ q) : g = h := by
  simpa using congrArg parsedHeader heq

/-- The header of a container that decodes to what follows it is valid for it. -/
theorem validFor_of_decodeContainer {c : Config} {h : Header} {p : ByteSeq}
    (hd : decodeContainer c (h.bytes ++ p) = .ok p) : h.ValidFor c p := by
  obtain ⟨g, hbytes, hv⟩ := (decodeSucceedsExactlyOnValid c _ p).mp hd
  rwa [Header.bytes_append_inj hbytes]

/-- A payload with a valid header is shorter than the length field's range. -/
theorem Header.ValidFor.payload_length_lt {c : Config} {h : Header} {p : ByteSeq} (hv : h.ValidFor c p) : p.length < 2 ^ 32 := by
  rw [← hv.length, ← h.length_toNat]
  exact h.length.isLt

/-- Where a stage before the checksum stops, `decode` stops with its error. -/
theorem decodeContainer_of_checkHeader_error {c : Config} {bytes : ByteSeq} {e : CodecError}
    (he : checkHeader c bytes = .error e) : decodeContainer c bytes = .error e := by
  rw [decodeContainer_eq, he]

/-- Where every stage before it passes, the checksum decides. -/
theorem decodeContainer_of_passesFor {c : Config} {h : Header} {cand : ByteSeq} (hpass : h.PassesFor c cand) :
    decodeContainer c (h.bytes ++ cand) =
      if cs2 c cand = h.stored then .ok cand else .error (.checksumMismatch (pair16 h.stored) (cs16 c cand)) := by
  rw [decodeContainer_eq, (checkHeader_eq_ok_iff c _ h cand).mpr ⟨rfl, hpass⟩]
  exact ite_not ..

/-! ### What `decode` reads of a header -/

/-- Two headers agree on all that `decode` reads: not the version nibble, and the signature only when `SIG_CHECK` (R64, R66). -/
structure Header.AgreesWith (c : Config) (g h : Header) : Prop where
  signature : c.sigCheck = true → g.sig = h.sig
  algorithms : g.vers.extractLsb' 0 4 = h.vers.extractLsb' 0 4
  length : g.length = h.length
  stored : g.stored = h.stored

section
variable {c : Config} {g h : Header} (hagree : g.AgreesWith c h) (cand : ByteSeq)
include hagree

/-- The stages then stop alike, or answer each header. -/
theorem checkHeader_congr :
    checkHeader c (g.bytes ++ cand) = (checkHeader c (h.bytes ++ cand)).map (fun parsed => (g, parsed.2)) := by
  obtain ⟨hsig, halg, hlen, -⟩ := hagree
  obtain ⟨hcomp, hnc⟩ := (algorithmBits_eq_iff _ _).mp halg
  by_cases hpass : c.sigCheck = true → h.sig = 0x8F
  · have hpass' : c.sigCheck = true → g.sig = 0x8F := fun hcheck => (hsig hcheck).trans (hpass hcheck)
    rw [checkHeader_bytes, checkHeader_bytes, if_neg (not_not.mpr hpass), if_neg (not_not.mpr hpass')]
    simp only [← Header.length_toNat, hcomp, hnc, hlen]
    split_ifs <;> rfl
  · obtain ⟨hcheck, hbad⟩ := Classical.not_imp.mp hpass
    rw [checkHeader_wrongSignature hcheck hbad, checkHeader_wrongSignature hcheck (hsig hcheck ▸ hbad), hsig hcheck]
    rfl

/-- `decode` then answers alike. -/
theorem decodeContainer_congr : decodeContainer c (g.bytes ++ cand) = decodeContainer c (h.bytes ++ cand) := by
  rw [decodeContainer_eq, decodeContainer_eq, checkHeader_congr hagree]
  cases hch : checkHeader c (h.bytes ++ cand) with
  | error e => rfl
  | ok parsed =>
    have hparsed := Header.bytes_append_inj ((checkHeader_eq_ok_iff c _ parsed.1 parsed.2).mp hch).1
    simp only [Except.map, hagree.stored, hparsed]

/-- CKSUM is then alike. -/
theorem decodeCksum_congr : decodeCksum c (g.bytes ++ cand) = decodeCksum c (h.bytes ++ cand) := by
  simp only [decodeCksum, checkHeader_congr hagree]
  cases checkHeader c (h.bytes ++ cand) with
  | error e => rfl
  | ok parsed => rfl

end

/-- Settles O30: `decode` does not read the version nibble. -/
theorem versionNibbleIsIgnored : Obligations.VersionNibbleIsIgnored :=
  fun _ h v cand hvers => decodeContainer_congr (g := { h with vers := v }) (h := h) ⟨fun _ => rfl, hvers, rfl, rfl⟩ cand

/-- Without the signature check a header agrees with itself under any signature. -/
theorem Header.agreesWith_setSig {c : Config} (hcheck : c.sigCheck = false) (h : Header) (b : Byte) :
    Header.AgreesWith c { h with sig := b } h :=
  ⟨fun hc => absurd hc (Bool.eq_false_iff.mp hcheck), rfl, rfl, rfl⟩

/-- Settles O31: with the check the first stage stops; without it `decode` does not read the signature. -/
theorem signatureCheckGatesDecode : Obligations.SignatureCheckGatesDecode := by
  intro c h cand hsig
  cases hcheck : c.sigCheck with
  | true => exact decodeContainer_of_checkHeader_error (checkHeader_wrongSignature hcheck hsig)
  | false => exact (decodeContainer_congr (Header.agreesWith_setSig hcheck h 0x8F) cand).symm

/-! ### Changing a field -/

/-- The four length bytes are determined by the number they declare (R68). -/
theorem be32Read_injective {a0 a1 a2 a3 b0 b1 b2 b3 : Byte} (h : be32Read a0 a1 a2 a3 = be32Read b0 b1 b2 b3) :
    (a0, a1, a2, a3) = (b0, b1, b2, b3) := by
  have hbytes := congrArg be32 h
  rw [lengthFieldRoundTrip.2, lengthFieldRoundTrip.2] at hbytes
  cases hbytes
  rfl

/-- Settles O32: other length bytes declare another length, which is not the payload's. -/
theorem lengthFieldTamperDetected : Obligations.LengthFieldTamperDetected := by
  intro c h payload b0 b1 b2 b3 hd hne
  obtain ⟨hsig, hcomp, hnc, hlen, -⟩ := validFor_of_decodeContainer hd
  have hread : be32Read b0 b1 b2 b3 ≠ h.length := fun heq => hne (be32Read_injective heq)
  refine ⟨be32Read b0 b1 b2 b3, hread, decodeContainer_of_checkHeader_error
    (checkHeader_lengthMismatch (h := { h with len0 := b0, len1 := b1, len2 := b2, len3 := b3 }) hsig hcomp hnc ?_)⟩
  rw [← hlen, ← Header.length_toNat, ← Header.length_toNat]
  exact fun heq => hread (BitVec.eq_of_toNat_eq heq)

/-- Settles O33: the header passes for the other payload too, so the checksum decides. -/
theorem payloadTamperDetectedByChecksum : Obligations.PayloadTamperDetectedByChecksum := by
  intro c h p q hd hlen
  obtain ⟨hpass, hck⟩ := (h.validFor_iff c p).mp (validFor_of_decodeContainer hd)
  rw [decodeContainer_of_passesFor { hpass with length := hpass.length.trans hlen.symm }, ← hck]
  rfl

/-- Settles O29: a payload has one valid header up to the version nibble and an unchecked signature. -/
theorem reencodingReproducesContainer : Obligations.ReencodingReproducesContainer := by
  intro c h payload hd
  have hv := validFor_of_decodeContainer hd
  have hfit : payload.length ≤ maxPayload := Nat.le_pred_of_lt hv.payload_length_lt
  obtain ⟨hsig, hcomp, hnc, hlen, hck0, hck1⟩ := hv
  have hlength : (headerOf c payload).length = h.length := by
    rw [Header.length_eq_ofNat, headerOf_declared c hfit, h.length_eq_ofNat, hlen]
  have hbytes := be32Read_injective hlength
  simp only [Prod.mk.injEq] at hbytes
  obtain ⟨h0, h1, h2, h3⟩ := hbytes
  refine ⟨headerOf c payload, encodeContainer_ok c payload hfit, fun hcheck => (hsig hcheck).symm,
    ((algorithmBits_eq_zero_iff _).mpr ⟨hcomp, hnc⟩).symm, h0, h1, h2, h3, ?_, ?_⟩
  · rw [hck0, headerOf, cs2_eq]
  · rw [hck1, headerOf, cs2_eq]

end Sys2Proof.Machine
end

section
/-! PROOFS. The DECODE command (41_header_decoder.md R72): the completion with the payload, and with each error. -/

namespace Sys2Proof.Machine

/-! ### What the command computes from a container that has a header -/

section
variable {c : Config} {x : Input} {h : Header} {cand : ByteSeq} (hlen : x.len.toNat ≤ c.inCap)
  (hdata : x.data = h.bytes ++ cand)
include hlen hdata

/-- The payload, CKSUM and the header, where `decode` accepts. -/
theorem decodeResults_of_ok {p : ByteSeq} (hd : decodeContainer c (h.bytes ++ cand) = .ok p) :
    decodeResults c x = .success (decodeCksum c (h.bytes ++ cand)) (some h) (.bytes p) := by
  rw [decodeResults, checkInLen_of_le hlen, hdata, hd, parsedHeader_bytes]

/-- The error, CKSUM and the header, where `decode` rejects. -/
theorem decodeResults_of_error {e : CodecError} (hd : decodeContainer c (h.bytes ++ cand) = .error e) :
    decodeResults c x = .failure e (decodeCksum c (h.bytes ++ cand)) (some h) := by
  rw [decodeResults, checkInLen_of_le hlen, hdata, hd, parsedHeader_bytes]

/-- DEC_HDR gets the two bytes found, whatever the outcome (R72). -/
theorem decodeResults_decHdr : (decodeResults c x).decSig = h.sig ∧ (decodeResults c x).decVers = h.vers := by
  cases hd : decodeContainer c (h.bytes ++ cand) with
  | ok p => rw [decodeResults_of_ok hlen hdata hd]; exact ⟨rfl, rfl⟩
  | error e => rw [decodeResults_of_error hlen hdata hd]; exact ⟨rfl, rfl⟩

/-- Without the signature check another signature changes nothing but DEC_HDR.SIG (R64). -/
theorem decodeResults_setSig {y : Input} {b : Byte} (hlen' : y.len.toNat ≤ c.inCap)
    (hdata' : y.data = Header.bytes { h with sig := b } ++ cand) (hcheck : c.sigCheck = false) :
    decodeResults c y = { decodeResults c x with decSig := b } := by
  have hagree := Header.agreesWith_setSig hcheck h b
  have hdecode := decodeContainer_congr hagree cand
  have hcksum := decodeCksum_congr hagree cand
  cases hd : decodeContainer c (h.bytes ++ cand) with
  | ok p =>
    rw [decodeResults_of_ok hlen hdata hd, decodeResults_of_ok hlen' hdata' (hdecode.trans hd), hcksum]
    rfl
  | error e =>
    rw [decodeResults_of_error hlen hdata hd, decodeResults_of_error hlen' hdata' (hdecode.trans hd), hcksum]
    rfl

end

/-! ### What a completion that parsed a header leaves -/

/-- A success that parsed a header and has a result: the DEC registers, CKSUM, OUT_LEN and OutBuf. -/
theorem State.complete_success_parsed (s : State) (ck : Half) (h : Header) (r : ByteSeq) :
    s.complete (.success ck (some h) (.bytes r)) =
      (s.decodedWith h ck).succeededWith (BitVec.ofNat 32 r.length) (Memory.ofBytes 0 r) := by
  rw [State.decodedWith, ← h.length_eq_ofNat, ← h.pair16_stored]
  rfl

/-- A failure that parsed a header: the DEC registers, CKSUM, and the error's code, FIELD and values. -/
theorem State.complete_failure_parsed (s : State) (e : CodecError) (ck : Half) (h : Header) :
    s.complete (.failure e ck (some h)) =
      (s.decodedWith h ck).failedWith e.code e.field e.expValue e.actValue := by
  rw [State.decodedWith, ← h.length_eq_ofNat, ← h.pair16_stored]
  rfl

/-- A failure that parsed no header. -/
theorem State.complete_failure_plain (s : State) (e : CodecError) (ck : Half) :
    s.complete (.failure e ck none) = (s.completedPlain ck).failedWith e.code e.field e.expValue e.actValue := rfl

/-! ### The payload -/

/-- Settles O9: CKSUM is the payload's checksum, which is the stored one. -/
theorem decodeExtractsPayload : Obligations.DecodeExtractsPayload := by
  intro s h payload hlen hdata hv
  have hroom := hv.payload_length_lt
  have hck : cs16 Config.unit payload = h.ck0 ++ h.ck1 := by
    rw [cs16_eq, ← hv.checksum.1, ← hv.checksum.2]
  have hexec := exec_decode_of_validFor hlen hdata hv
  rw [hck] at hexec
  refine ⟨_, hexec, ?_, State.complete_success_outByte s _ _ hroom, Nat.mod_eq_of_lt hroom⟩
  rw [State.complete_success_parsed]
  rfl

/-! ### The errors -/

/-- Settles O11: a short container stops at the first stage, with no header. -/
theorem decodeShortContainerFails : Obligations.DecodeShortContainerFails := by
  intro s hlen hshort
  rw [exec_eq, commandResults, decodeResults, checkInLen_of_le hlen, decodeContainer_short _ _ hshort,
    parsedHeader_short _ hshort, decodeCksum, checkHeader_short _ _ hshort]
  exact congrArg _ (State.complete_failure_plain s _ _)

/-- DECODE of a container with a header that `decode` rejects. -/
theorem exec_decode_of_error {s : State} {h : Header} {cand : ByteSeq} {e : CodecError}
    (hlen : (s.input Config.unit).len.toNat ≤ Config.unit.inCap) (hdata : (s.input Config.unit).data = h.bytes ++ cand)
    (he : decodeContainer Config.unit (h.bytes ++ cand) = .error e) :
    exec .decode s =
      .next ((s.decodedWith h (decodeCksum Config.unit (h.bytes ++ cand))).failedWith e.code e.field e.expValue e.actValue) := by
  rw [exec_eq, commandResults, decodeResults_of_error hlen hdata he, State.complete_failure_parsed]

/-- DECODE of a container that a stage before the checksum stops: the stage's error, and CKSUM 0 (10_state.md R17). -/
theorem exec_decode_of_checkHeader_error {s : State} {h : Header} {cand : ByteSeq} {e : CodecError}
    (hlen : (s.input Config.unit).len.toNat ≤ Config.unit.inCap) (hdata : (s.input Config.unit).data = h.bytes ++ cand)
    (he : checkHeader Config.unit (h.bytes ++ cand) = .error e) :
    exec .decode s = .next ((s.decodedWith h 0).failedWith e.code e.field e.expValue e.actValue) := by
  rw [exec_decode_of_error hlen hdata (decodeContainer_of_checkHeader_error he), decodeCksum, he]

/-- Settles O13: the compression id stops it. -/
theorem decodeUnsupportedCompression : Obligations.DecodeUnsupportedCompression :=
  fun _ _ _ hlen hdata hsig hcomp => exec_decode_of_checkHeader_error hlen hdata (checkHeader_compression hsig hcomp)

/-- Settles O14: the noise-cancellation id stops it. -/
theorem decodeUnsupportedNoiseCancellation : Obligations.DecodeUnsupportedNoiseCancellation :=
  fun _ _ _ hlen hdata hsig hcomp hnc =>
    exec_decode_of_checkHeader_error hlen hdata (checkHeader_noiseCancellation hsig hcomp hnc)

/-- Settles O15: the declared length stops it. -/
theorem decodeLengthMismatchFails : Obligations.DecodeLengthMismatchFails := by
  intro s h cand hlen hdata hsig halg hne
  obtain ⟨hcomp, hnc⟩ := (algorithmBits_eq_zero_iff _).mp halg
  rw [← h.length_eq_ofNat]
  exact exec_decode_of_checkHeader_error hlen hdata (checkHeader_lengthMismatch hsig hcomp hnc hne)

/-- Settles O16: every stage passes, so CKSUM is the recomputed checksum, and the comparison stops it. -/
theorem decodeChecksumMismatchFails : Obligations.DecodeChecksumMismatchFails := by
  intro s h cand hlen hdata hsig halg hdecl computed stored hne
  obtain ⟨hcomp, hnc⟩ := (algorithmBits_eq_zero_iff _).mp halg
  have hpass : h.PassesFor Config.unit cand := ⟨hsig, hcomp, hnc, hdecl⟩
  have hcomputed : cs16 Config.unit cand = computed := cs16_eq _ _
  have hstored : pair16 h.stored = stored := h.pair16_stored
  have hck : cs2 Config.unit cand ≠ h.stored := fun heq => hne (by rw [← hcomputed, ← hstored, cs16, heq])
  have he := decodeContainer_of_passesFor hpass
  rw [if_neg hck] at he
  rw [exec_decode_of_error hlen hdata he, decodeCksum, (checkHeader_eq_ok_iff _ _ h cand).mpr ⟨rfl, hpass⟩, hstored]
  simp only [hcomputed]
  rfl

/-! ### The signature -/

/-- Settles O12: with the check the first stage stops; without it the two inputs have the same results but for DEC_HDR.SIG. -/
theorem decodeWrongSignature : Obligations.DecodeWrongSignature := by
  intro s u h cand hlen hdata hsig hu
  obtain ⟨hdecSig, hdecVers⟩ := decodeResults_decHdr hlen hdata
  refine ⟨_, _, exec_eq .decode s, exec_eq .decode u, hdecSig, hdecVers, ?_⟩
  split
  next hcheck =>
    have hexec := exec_decode_of_checkHeader_error hlen hdata (checkHeader_wrongSignature hcheck hsig)
    rw [exec_eq] at hexec
    exact Host.Outcome.next.inj hexec
  next hcheck =>
    have hulen : (u.input Config.unit).len.toNat ≤ Config.unit.inCap := by rw [hu]; exact hlen
    have hudata := congrArg Input.data hu
    rw [commandResults, commandResults, decodeResults_setSig hlen hdata hulen hudata (Bool.eq_false_iff.mpr hcheck)]
    exact State.complete_sameResults { decodeResults Config.unit (s.input Config.unit) with decSig := 0x8F } s u

end Sys2Proof.Machine
end

section
/-! PROOFS. The checksum unit: the byte pair and its register image (42_checksum_unit.md R74, R75), and the CHECKSUM command (R76). -/

namespace Sys2Proof.Config

/-- The digest is `DIGEST_LEN` bytes long (42_checksum_unit.md R73). -/
@[simp] theorem digest_length (c : Config) (p : ByteSeq) : (c.digest p).length = c.digestLen := by
  rw [digest, List.length_map, List.length_range]

/-- The digest lists its bytes by index. -/
theorem digest_getElem? (c : Config) (p : ByteSeq) {i : Nat} (hi : i < c.digestLen) :
    (c.digest p)[i]? = some (c.digestByte p i) := by
  rw [digest, List.getElem?_map, List.getElem?_range hi, Option.map_some]

/-- The digest has the two bytes of the checksum (00_scope.md R4). -/
theorem two_le_digestLen (c : Config) : 2 ≤ c.digestLen := Nat.le_add_left 2 _

end Sys2Proof.Config

namespace Sys2Proof.Machine

/-! ### The checksum -/

/-- Both bytes can be read off the image: they are its quotient and remainder by 256. -/
theorem pair16_injective : Function.Injective pair16 := by
  rintro ⟨x1, x2⟩ ⟨y1, y2⟩ h
  have hval := congrArg BitVec.toNat h
  simp only [pair16_toNat] at hval
  have hx := x2.isLt
  have hy := y2.isLt
  have h1 : x1 = y1 := BitVec.eq_of_toNat_eq (by omega)
  have h2 : x2 = y2 := BitVec.eq_of_toNat_eq (by omega)
  rw [h1, h2]

/-- A 16-bit value is the image of its upper and lower byte. -/
theorem pair16_extract (h : Half) : pair16 (h.extractLsb' 8 8, h.extractLsb' 0 8) = h := by
  have hall : h.extractLsb' 8 8 ++ h.extractLsb' 0 8 = h.extractLsb' 0 16 :=
    BitVec.extractLsb'_append_extractLsb'_eq_extractLsb' (len₁ := 8) (len₂ := 8) rfl
  rw [pair16_eq_append, hall, BitVec.extractLsb'_eq_self]

/-- Settles O24: `cs2` reads the digest's first two bytes, and `pair16` is a bijection. -/
theorem checksumImageIsBigEndian : Obligations.ChecksumImageIsBigEndian := by
  refine ⟨fun c p => ?_, fun _ _ => pair16_injective.eq_iff, fun h => ⟨_, pair16_extract h⟩⟩
  have hlen := c.two_le_digestLen
  rw [cs2_eq]
  refine ⟨c.digest_length p, c.digest_getElem? p (by omega), c.digest_getElem? p (by omega), ?_⟩
  rw [cs16_eq, append_byte_toNat]

/-! ### The CHECKSUM command -/

/-- CHECKSUM of an input that fits: its checksum, no header, and OutBuf not written (42_checksum_unit.md R76). -/
theorem checksumResults_of_fits {c : Config} {x : Input} (hlen : x.len.toNat ≤ c.inCap) :
    checksumResults c x = .success (cs16 c x.data) none .kept := checkInLen_of_le hlen _

/-- A success that parsed no header and keeps OutBuf: CKSUM, and 0 elsewhere. -/
theorem State.complete_success_kept (s : State) (ck : Half) :
    s.complete (.success ck none .kept) = (s.completedPlain ck).succeededWith 0 s.outBuf := rfl

/-- Settles O8: the completion with the input's checksum and no result. -/
theorem checksumWritesCksum : Obligations.ChecksumWritesCksum := by
  intro s hlen p
  rw [exec_eq, commandResults, checksumResults_of_fits hlen, State.complete_success_kept, cs16_eq]

end Sys2Proof.Machine
end

section
/-! PROOFS. Which check decides a completion (60_exceptions.md R80): the word, then IN_LEN, then the command. -/

namespace Sys2Proof.Machine

/-- An input that does not fit fails the length check, whatever the command would have computed. -/
theorem checkInLen_of_lt {c : Config} {x : Input} (h : c.inCap < x.len.toNat) (r : Results) :
    checkInLen c x r = .failure (.inLenTooLarge c.inCap x.len) 0 none := if_pos h

/-- Every command makes the length check first. -/
theorem commandResults_of_lt {c : Config} {x : Input} (h : c.inCap < x.len.toNat) (i : Instr) :
    commandResults c i x = .failure (.inLenTooLarge c.inCap x.len) 0 none := by
  cases i with
  | encode => exact checkInLen_of_lt h _
  | decode => exact checkInLen_of_lt h _
  | checksum => exact checkInLen_of_lt h _

/-- Settles O10: the failure of the length check, which parsed no header. -/
theorem oversizedInLenFailsEveryCommand : Obligations.OversizedInLenFailsEveryCommand := by
  intro i s hlen
  rw [exec_eq, commandResults_of_lt hlen, State.complete_failure_plain]
  rfl

/-- A word of the opcode map selects a command (30_encoding.md R54). -/
theorem decodeWord_legal {w : Word} (h : ¬(w ≠ 0x1 ∧ w ≠ 0x2 ∧ w ≠ 0x3)) : ∃ i, decodeWord w = .ok i := by
  have hw : w = 0x1 ∨ w = 0x2 ∨ w = 0x3 := by tauto
  rcases hw with rfl | rfl | rfl
  · exact ⟨.encode, rfl⟩
  · exact ⟨.decode, rfl⟩
  · exact ⟨.checksum, rfl⟩

/-- A pending command, run, is its completion. -/
theorem exec_of_pending {s : State} {p : Pending} {i : Instr} (hp : s.pending = some p) (hi : decodeWord p.word = .ok i) :
    exec i s = .next (s.complete (completion Config.unit p)) := by
  rw [exec_eq, State.input_pending _ _ _ hp, completion_ok _ _ _ hi]

/-- Settles O18: the step is the completion of the pending word, read off branch by branch. -/
theorem completionChecksInOrder : Obligations.CompletionChecksInOrder := by
  intro s u p hnext hp
  have hu : u.pending = some p := by rw [← hp, ← nextEvent_pending s, hnext]
  refine ⟨_, step_of_complete hnext hp, ?_⟩
  split_ifs with hillegal hlen hencode hdecode
  · obtain ⟨hne1, hne2, hne3⟩ := hillegal
    obtain ⟨e, he⟩ := decodeWord_illegal hne1 hne2 hne3
    rw [completion_error _ _ _ he]
    exact ⟨rfl, rfl, rfl⟩
  · obtain ⟨i, hi⟩ := decodeWord_legal hillegal
    rw [completion_ok _ _ _ hi, commandResults_of_lt (x := ⟨p.len, p.data⟩) hlen]
    exact ⟨rfl, rfl, rfl⟩
  · exact exec_of_pending hu (by rw [hencode]; rfl)
  · exact exec_of_pending hu (by rw [hdecode]; rfl)
  · have hchecksum : p.word = 0x3 := by tauto
    exact exec_of_pending hu (by rw [hchecksum]; rfl)

end Sys2Proof.Machine
end

section
/-! PROOFS. When the interrupt output changes (60_exceptions.md R85, 10_state.md R27). -/

namespace Sys2Proof.Machine

/-- What a write that passed the checks does to IRQ: nothing, or what the accept, the W1C of DONE or the new IE makes of it. -/
theorem busWrite_irq (c : Config) (a : Access) (s : State) :
    (busWrite c a s).irq = s.irq ∨
      (regAt a.addr.toNat = some .cmd ∧ s.busy = false ∧ (busWrite c a s).irq = false) ∨
      (regAt a.addr.toNat = some .status ∧ (busWrite c a s).irq = (s.irq && !a.wdata.getLsbD 1)) ∨
      (regAt a.addr.toNat = some .ctrl ∧ (busWrite c a s).irq = (a.wdata.getLsbD 0 && s.done)) := by
  rcases busWrite_cases c a s with e | ⟨-, e⟩ | ⟨hi, hcmd, e⟩ | ⟨hstatus, e⟩ | ⟨hctrl, e⟩ | ⟨-, -, e⟩ | ⟨-, -, e⟩ <;> rw [e]
  · exact .inl rfl
  · exact .inl rfl
  · exact .inr (.inl ⟨hcmd, hi, Bool.and_false _⟩)
  · exact .inr (.inr (.inl ⟨hstatus, (Bool.and_assoc _ _ _).symm⟩))
  · exact .inr (.inr (.inr ⟨hctrl, rfl⟩))
  · exact .inl rfl
  · exact .inl rfl

/-- An access that proceeds at a register is a word at its address (20_memory.md R32). -/
theorem word_of_regAt {c : Config} {a : Access} {r : Reg} (hok : accessError c a = false) (hr : regAt a.addr.toNat = some r) :
    a.size = .word ∧ a.addr = r.addr := by
  have haddr := (regAt_toNat_eq_some_iff a.addr r).mp hr
  have hreg : regionOf c a.addr.toNat = .reg := (regionOf_reg_iff c _).mpr (by rw [haddr]; cases r <;> decide)
  exact ⟨size_eq_word_of_reg hok hreg, haddr⟩

/-- What an access does to IRQ: nothing, or what a word write to CMD, STATUS or CTRL makes of it. -/
theorem busAccess_irq (c : Config) (a : Access) (s : State) :
    (busAccess c a s).irq = s.irq ∨
      a.kind = .write ∧ a.size = .word ∧
        ((a.addr = 0x000 ∧ s.pending = none ∧ (busAccess c a s).irq = false) ∨
          (a.addr = 0x004 ∧ (busAccess c a s).irq = (s.irq && !a.wdata.getLsbD 1)) ∨
          (a.addr = 0x008 ∧ (busAccess c a s).irq = (a.wdata.getLsbD 0 && s.done))) := by
  rcases busAccess_cases c a s with ⟨-, e⟩ | ⟨-, -, e⟩ | ⟨hok, hk, e⟩ <;> rw [e]
  · exact .inl rfl
  · exact .inl rfl
  · refine (busWrite_irq c a s).imp_right ?_
    rintro (⟨hr, hi, hirq⟩ | ⟨hr, hirq⟩ | ⟨hr, hirq⟩) <;> obtain ⟨hs, ha⟩ := word_of_regAt hok hr
    · exact ⟨hk, hs, .inl ⟨ha, State.pending_eq_none hi, hirq⟩⟩
    · exact ⟨hk, hs, .inr (.inl ⟨ha, hirq⟩)⟩
    · exact ⟨hk, hs, .inr (.inr ⟨ha, hirq⟩)⟩

/-- After the unit's turn IRQ is as before, or a command completed and IRQ is IE. -/
theorem eventStep_complete_irq (c : Config) (s : State) :
    (eventStep c .complete s).irq = s.irq ∨ (s.pending ≠ none ∧ (eventStep c .complete s).irq = s.ie) := by
  cases hp : s.pending with
  | none => exact .inl (by simp only [eventStep, hp])
  | some p => exact .inr ⟨nofun, by simp [eventStep, hp, State.irq]⟩

/-- The events that raise IRQ. -/
theorem eventStep_irq_rises {c : Config} {e : Event} {s : State} (hs : s.irq = false) (ht : (eventStep c e s).irq = true) :
    (e = .complete ∧ s.pending ≠ none ∧ s.ie = true) ∨
      ∃ w, e = .access ⟨.write, 0x008, .word, w⟩ ∧ w.getLsbD 0 = true ∧ s.done = true := by
  cases e with
  | reset => cases ht
  | complete =>
    rcases eventStep_complete_irq c s with hirq | ⟨hp, hirq⟩ <;> rw [hirq] at ht
    · exact absurd ht (by simp [hs])
    · exact .inl ⟨rfl, hp, ht⟩
  | access a =>
    obtain ⟨kind, addr, size, w⟩ := a
    rw [eventStep] at ht
    rcases busAccess_irq c ⟨kind, addr, size, w⟩ s with hirq | ⟨rfl, rfl, ⟨-, -, hirq⟩ | ⟨-, hirq⟩ | ⟨rfl, hirq⟩⟩ <;>
      rw [hirq] at ht
    · exact absurd ht (by simp [hs])
    · cases ht
    · exact absurd ht (by simp [hs])
    · exact .inr ⟨w, rfl, Bool.and_eq_true_iff.mp ht⟩

/-- The events that lower IRQ. -/
theorem eventStep_irq_falls {c : Config} {e : Event} {s : State} (hs : s.irq = true) (ht : (eventStep c e s).irq = false) :
    e = .reset ∨
      ∃ a : Access, e = .access a ∧ a.kind = .write ∧ a.size = .word ∧
        ((a.addr = 0x004 ∧ a.wdata.getLsbD 1 = true) ∨ (a.addr = 0x000 ∧ s.pending = none) ∨
          (a.addr = 0x008 ∧ a.wdata.getLsbD 0 = false)) := by
  obtain ⟨hie, hdone⟩ := Bool.and_eq_true_iff.mp hs
  cases e with
  | reset => exact .inl rfl
  | complete =>
    rcases eventStep_complete_irq c s with hirq | ⟨-, hirq⟩ <;> rw [hirq] at ht
    · exact absurd ht (by simp [hs])
    · exact absurd ht (by simp [hie])
  | access a =>
    refine .inr ⟨a, rfl, ?_⟩
    rw [eventStep] at ht
    rcases busAccess_irq c a s with hirq | ⟨hk, hsize, ⟨ha, hp, -⟩ | ⟨ha, hirq⟩ | ⟨ha, hirq⟩⟩
    · exact absurd (hirq.symm.trans ht) (by simp [hs])
    · exact ⟨hk, hsize, .inr (.inl ⟨ha, hp⟩)⟩
    · exact ⟨hk, hsize, .inl ⟨ha, by simpa [hs] using hirq.symm.trans ht⟩⟩
    · exact ⟨hk, hsize, .inr (.inr ⟨ha, by simpa [hdone] using hirq.symm.trans ht⟩)⟩

/-- Settles O51: the step is the next event, on a state that differs in the agenda alone. -/
theorem irqChangesOnlyAsRuled : Obligations.IrqChangesOnlyAsRuled := by
  intro s t hstep
  rw [step_eq, nextEvent_snd] at hstep
  cases hstep
  exact ⟨fun hs ht => eventStep_irq_rises (s := { s with agenda := s.agenda.tail }) hs ht,
    fun hs ht => eventStep_irq_falls (s := { s with agenda := s.agenda.tail }) hs ht⟩

end Sys2Proof.Machine
end

section
/-! PROOFS. What STATUS can show (60_exceptions.md R78, R79, R81, 70_reset_and_hazards.md R93). -/

namespace Sys2Proof.Machine

/-- Bit 0 of STATUS is BUSY. -/
theorem State.statusWord_getLsbD_zero (s : State) : s.statusWord.getLsbD 0 = s.busy := by
  simp only [State.statusWord, BitVec.getLsbD_append]
  simp

/-- Bit 8 of STATUS is FIELD. -/
theorem State.statusWord_getLsbD_eight (s : State) : s.statusWord.getLsbD 8 = s.field := by
  simp only [State.statusWord, BitVec.getLsbD_append]
  simp

/-- Bits 7:4 of STATUS are CODE. -/
theorem State.statusWord_code (s : State) : s.statusWord.extractLsb' 4 4 = s.code.bits := by
  simp (disch := decide) only [State.statusWord, BitVec.extractLsb'_append_eq_of_le, BitVec.extractLsb'_append_eq_of_add_le,
    Nat.reduceSub, BitVec.extractLsb'_eq_self]

/-- No code's number is above 8 (60_exceptions.md R78). -/
theorem StatusCode.bits_le (k : StatusCode) : k.bits.toNat ≤ 8 := by cases k <;> decide

/-- Number 1 is code 1's alone (60_exceptions.md R78). -/
theorem StatusCode.eq_encoding_of_bits {k : StatusCode} (h : k.bits = 1) : k = .encoding := by
  cases k with
  | encoding => rfl
  | _ => exact absurd h (by decide)

/-- STATUS while BUSY, in a state that meets the invariant: bit 0, and HAZ at bit 3 (70_reset_and_hazards.md R93). -/
theorem State.Inv.statusWord_busy {c : Config} {s : State} (h : s.Inv c) (hb : s.busy = true) :
    s.statusWord.toNat = 1 + (if s.haz then 8 else 0) := by
  obtain ⟨hdone, hcode, hfield⟩ := h.busy_clear hb
  have herr : s.err = false := by rw [State.err, hcode]; rfl
  rw [s.statusWord_toNat, hb, hdone, herr, hcode, hfield]
  cases s.haz <;> rfl

/-- Settles O58: each clause is a field of STATUS and the invariant's word about it. -/
theorem statusShowsOnlyReachableCodes : Obligations.StatusShowsOnlyReachableCodes := by
  intro s hs
  rw [s.statusWord_code, s.statusWord_getLsbD_zero, s.statusWord_getLsbD_eight]
  refine ⟨s.code.bits_le, fun h1 => hs.no_encoding_error (StatusCode.eq_encoding_of_bits h1), fun hf => ?_, hs.statusWord_busy⟩
  rw [hs.field_code hf]
  rfl

end Sys2Proof.Machine
end

section
/-! PROOFS. Units of a system share nothing (60_exceptions.md R89). -/

namespace Sys2Proof.Machine

/-- A step of unit `i` is a step of that unit and leaves every other. -/
theorem System.stepUnit_getElem? (i : Nat) (sys : System) (k : Nat) :
    (System.stepUnit i sys)[k]? = sys[k]?.map (SystemUnit.step^[if i = k then 1 else 0]) := by
  rw [System.stepUnit, List.getElem?_modify]
  split <;> rfl

/-- Settles O59, by induction on the order: unit `k` moves exactly at its own entries. -/
theorem unitsAreIndependent : Obligations.UnitsAreIndependent := by
  intro order
  induction order with
  | nil => intro sys k; simp [System.run]
  | cons i order ih =>
    intro sys k
    calc (System.run (i :: order) sys)[k]?
        = (System.run order (System.stepUnit i sys))[k]? := rfl
      _ = (sys[k]?.map (SystemUnit.step^[if i = k then 1 else 0])).map (SystemUnit.step^[order.count k]) := by
          rw [ih, System.stepUnit_getElem?]
      _ = sys[k]?.map (SystemUnit.step^[(i :: order).count k]) := by
          rw [Option.map_map, ← Function.iterate_add, List.count_cons]
          simp only [beq_iff_eq]

end Sys2Proof.Machine
end

section
/-! PROOFS. Commands on the unit's turn: what each completes with, its frame, and that a pending one gets its turn
(70_reset_and_hazards.md R94, R95). -/

namespace Sys2Proof.Machine

/-- No byte of OutBuf at or above OUT_LEN is defined (10_state.md R25). -/
theorem State.outByte_eq_none_of_le {s : State} {j : Nat} (h : s.outLen.toNat ≤ j) : s.outByte j = none := by
  simp [State.outByte, Nat.not_lt.mpr h]

/-- Settles O6: a command is a completion, and a completion writes the result registers, OutBuf and Pending alone. -/
theorem everyCommandCompletesWithinFrame : Obligations.EveryCommandCompletesWithinFrame :=
  fun i s => ⟨_, exec_eq i s, rfl, rfl, rfl, rfl, rfl, rfl, rfl, fun _ => rfl, rfl, rfl, rfl, rfl,
    fun _ => State.outByte_eq_none_of_le⟩

/-- Settles O1: both sides are the completion of the pending word. -/
theorem stepRunsDecodedCommand : Obligations.StepRunsDecodedCommand := by
  intro s u p i hnext hp hi
  have hu : u = { s with agenda := s.agenda.tail } := by rw [← nextEvent_snd s, hnext]
  have hup : u.pending = some p := by rw [hu, ← hp]
  exact ⟨(step_of_complete hnext hp).trans (exec_of_pending hup hi).symm, hu⟩

/-- A nonempty agenda without a reset neither begins with one nor has one later. -/
theorem State.noReset.uncons {s : State} {e : Event} {rest : List Event} (h : s.noReset) (hs : s.agenda = e :: rest) :
    Event.reset ≠ e ∧ Event.reset ∉ rest := by
  rwa [State.noReset, hs, List.mem_cons, not_or] at h

/-- With no reset ahead the pending command reaches its turn: an access before it takes one event and leaves the command pending. -/
theorem pending_reaches_turn {p : Pending} (agenda : List Event) {s : State} (hs : s.agenda = agenda) (hp : s.pending = some p)
    (hreset : s.noReset) :
    ∃ n t, n ≤ agenda.length ∧ core.run n s = .next t ∧ t.pending = some p ∧ (nextEvent t).1 = .complete := by
  induction agenda generalizing s with
  | nil => exact ⟨0, s, Nat.le_refl _, rfl, hp, by simp only [nextEvent, hs]⟩
  | cons e rest ih =>
    have hnext := nextEvent_cons hs
    obtain ⟨hhead, hrest⟩ := hreset.uncons hs
    cases e with
    | reset => exact absurd rfl hhead
    | complete => exact ⟨0, s, Nat.zero_le _, rfl, hp, by rw [hnext]⟩
    | access a =>
      obtain ⟨hstep, -⟩ := step_of_access hnext
      obtain ⟨hpending, -⟩ := pendingInputIsStable _ _ _ _ _ hnext hp hstep
      obtain ⟨-, -, -, -, -, -, -, -, -, -, hagenda, -⟩ := busAccess_results Config.unit a { s with agenda := rest }
      obtain ⟨n, t, hn, hrun, ht⟩ := ih hagenda hpending (by rwa [State.noReset, hagenda])
      exact ⟨n + 1, t, Nat.succ_le_succ hn, (core_run_succ n hstep).trans hrun, ht⟩

/-- Settles O55: the command reaches its turn, and the turn is its completion. -/
theorem pendingCommandCompletes : Obligations.PendingCommandCompletes := by
  intro s p hp hreset
  obtain ⟨n, t, hn, hrun, hpending, hturn⟩ := pending_reaches_turn s.agenda rfl hp hreset
  exact ⟨n, t, _, hn, hrun, hpending, hturn, step_of_complete (Prod.ext hturn rfl) hpending, rfl, rfl⟩

end Sys2Proof.Machine
end

section
/-! PROOFS. Reset (70_reset_and_hazards.md R91, 10_state.md section 7). -/

namespace Sys2Proof.Machine

/-- After reset every register reads 0. -/
theorem State.reset_readReg (r : Reg) : State.reset.readReg r = 0 := by cases r <;> decide

/-- What the registers read after a reset step is what they read in the state after reset. -/
theorem State.resetStep_readReg (s : State) (r : Reg) : s.resetStep.readReg r = State.reset.readReg r := by cases r <;> rfl

/-- After a reset step each InBuf byte is the new draw. -/
theorem State.resetStep_inByte (c : Config) (s : State) (i : Nat) : s.resetStep.inByte c i = c.inBufDraw s.draws i := rfl

/-- When reset is next, the step is the reset step on the state with the event taken off the agenda. -/
theorem step_of_reset {s u : State} (h : nextEvent s = (.reset, u)) :
    step s = .next u.resetStep ∧ u = { s with agenda := s.agenda.tail } := by
  have hu := nextEvent_snd s
  rw [h] at hu
  exact ⟨by rw [step_eq, h]; rfl, hu⟩

/-- Settles O48: the reset step, on a state that differs in the agenda alone. -/
theorem resetStepLeavesResetValues : Obligations.ResetStepLeavesResetValues := by
  intro s u hnext
  obtain ⟨hstep, rfl⟩ := step_of_reset hnext
  exact ⟨_, hstep, fun r => (State.resetStep_readReg _ r).trans (State.reset_readReg r), rfl, rfl, State.resetStep_inByte _ _,
    fun j => State.outByte_eq_none_of_le (Nat.zero_le j), rfl, rfl, rfl, rfl⟩

/-- Settles O49: with OUT_LEN 0 no byte of OutBuf is defined. -/
theorem resetStateReadsZero : Obligations.ResetStateReadsZero :=
  ⟨State.reset_readReg, rfl, rfl, fun j => State.outByte_eq_none_of_le (Nat.zero_le j)⟩

/-- Settles O57: the state after reset is what a reset step leaves when draw 0 is next. -/
theorem resetMeetsInvariant : Obligations.ResetMeetsInvariant := State.Inv.resetStep { State.reset with draws := 0 }

end Sys2Proof.Machine
end

section
/-! PROOFS. Writes to the registers, and the hazards (70_reset_and_hazards.md R93, R96, R98). -/

namespace Sys2Proof.Machine

/-! ### One register's write -/

/-- A write that meets a register is that register's write. -/
theorem busWrite_reg {c : Config} {a : Access} {r : Reg} (s : State) (hr : regAt a.addr.toNat = some r) :
    busWrite c a s = s.writeReg c r a.wdata := by
  have hreg : regionOf c a.addr.toNat = .reg :=
    (regionOf_reg_iff c _).mpr (by rw [← offset_of_regAt hr]; cases r <;> decide)
  simp only [busWrite, hreg, hr]

/-- A word write to a register proceeds, on the state with the event taken off the agenda. -/
theorem step_write_reg {s u : State} {r : Reg} {w : Word} (h : nextEvent s = (.access ⟨.write, r.addr, .word, w⟩, u)) :
    step s = .next ((u.writeReg Config.unit r w).respond ⟨.okay, 0⟩) ∧ u = { s with agenda := s.agenda.tail } := by
  obtain ⟨hstep, hu⟩ := step_of_access h
  have hr : regAt r.addr.toNat = some r := (regAt_toNat_eq_some_iff _ r).mpr rfl
  rw [busAccess_write_reg _ u _ w (by cases r <;> decide) (by cases r <;> decide), hr] at hstep
  exact ⟨hstep, hu⟩

/-- The registers from OUT_LEN up ignore a write (20_memory.md R34). -/
theorem State.writeReg_readOnly (c : Config) (s : State) {r : Reg} (w : Word) (h : 0x010 ≤ r.offset) :
    s.writeReg c r w = s := by
  cases r with
  | cmd | status | ctrl | inLen => exact absurd h (by decide)
  | _ => rfl

/-- An idle unit accepts a write to CMD (R93). -/
theorem State.writeCmd_idle (c : Config) {s : State} (w : Word) (h : s.pending = none) : s.writeCmd c w = s.accept c w := by
  simp [State.writeCmd, State.busy, h]

/-- Settles O41: the accept step samples the input of the state before, which the agenda does not touch. -/
theorem cmdWriteIsAccepted : Obligations.CmdWriteIsAccepted := by
  intro s u w hnext hidle
  obtain ⟨hstep, hu⟩ := step_write_reg (r := .cmd) hnext
  have hidle' : u.pending = none := by rw [hu]; exact hidle
  rw [hstep, State.writeReg, State.writeCmd_idle _ w hidle', hu]
  rfl

/-! ### The accesses that BUSY does not change -/

/-- Outside the result registers a register of the map reads as its value, BUSY or not (R97, R98). -/
theorem busReadReg_regAt_eq (c : Config) (s : State) {o : Nat} (h : o < 0x010 ∨ 0x02C ≤ o) :
    (regAt o).elim 0 (s.busReadReg c) = (regAt o).elim 0 s.readReg := by
  cases hr : regAt o with
  | none => rfl
  | some r => exact busReadReg_eq_readReg c hr (.inr h)

/-- Outside the result registers the map names STATUS, CTRL and IN_LEN, and everything else reads 0. -/
theorem readReg_regAt_eq_of_not_result (s : State) {o : Word} (h : o.toNat < 0x010 ∨ 0x02C ≤ o.toNat) :
    (regAt o.toNat).elim 0 s.readReg =
      if o = 0x004 then s.statusWord else if o = 0x008 then (if s.ie then 1 else 0) else if o = 0x00C then s.inLen else 0 := by
  have hrange : ∀ r ∈ ([0x010, 0x014, 0x018, 0x01C, 0x020, 0x024, 0x028] : List Word),
      ¬ (r.toNat < 0x010 ∨ 0x02C ≤ r.toNat) := by simp
  have hresult : ∀ r ∈ ([0x010, 0x014, 0x018, 0x01C, 0x020, 0x024, 0x028] : List Word), o ≠ r :=
    fun r hr ho => hrange r hr (ho ▸ h)
  simp only [List.forall_mem_cons] at hresult
  rw [readReg_regAt_eq]
  simp only [hresult, if_false]

/-- Settles O40: no register concerned is a draw while BUSY, and none of the writes asks whether the unit is BUSY. -/
theorem safeAccessesIgnoreBusy : Obligations.SafeAccessesIgnoreBusy := by
  rintro s u ⟨kind, o, size, w⟩ hnext ⟨⟩ ho h4
  refine ⟨?_, ?_, ?_, ?_⟩
  · rintro ⟨⟩ hrange
    obtain ⟨hstep, rfl⟩ := step_of_access hnext
    rw [hstep, busAccess_read_reg _ _ o w ho h4, busReadReg_regAt_eq _ _ hrange, readReg_regAt_eq_of_not_result _ hrange]
    rfl
  · rintro ⟨⟩ ⟨⟩
    obtain ⟨hstep, rfl⟩ := step_write_reg (r := .status) hnext
    exact hstep
  · rintro ⟨⟩ ⟨⟩
    obtain ⟨hstep, rfl⟩ := step_write_reg (r := .ctrl) hnext
    exact hstep
  · rintro ⟨⟩ hlo
    obtain ⟨hstep, -⟩ := step_of_access hnext
    rw [hstep, busAccess_write_reg _ _ o w ho h4]
    cases hr : regAt o.toNat with
    | none => rfl
    | some r => rw [Option.elim_some, State.writeReg_readOnly _ u w (by rwa [offset_of_regAt hr])]

/-! ### Dropped writes -/

/-- While BUSY a write to CMD, to IN_LEN or in IN_BUF only sets HAZ (R96). -/
theorem busWrite_dropped {c : Config} {a : Access} {s : State} (hb : s.busy = true)
    (ha : regAt a.addr.toNat = some .cmd ∨ regAt a.addr.toNat = some .inLen ∨ regionOf c a.addr.toNat = .inBuf) :
    busWrite c a s = s.dropWrite := by
  rcases ha with hcmd | hlen | hbuf
  · rw [busWrite_reg s hcmd]; exact if_pos hb
  · rw [busWrite_reg s hlen]; exact if_pos hb
  · simp only [busWrite, hbuf]; exact if_pos hb

/-- A write that proceeds above the registers is in IN_BUF: OUT_BUF takes none (20_memory.md R32). -/
theorem regionOf_eq_inBuf_of_write {c : Config} {a : Access} (hok : accessError c a = false) (hk : a.kind = .write)
    (hlo : 0x40000000 ≤ a.addr.toNat) : regionOf c a.addr.toNat = .inBuf := by
  obtain ⟨-, hmapped, -, -, hwrite⟩ := (accessError_eq_false_iff c a).mp hok
  exact regionOf_eq_inBuf hmapped hlo (Nat.lt_of_not_le fun h => hwrite hk (regionOf_eq_outBuf hmapped h))

/-- Settles O42: the write is one of the three that BUSY drops. -/
theorem busyWritesAreDropped : Obligations.BusyWritesAreDropped := by
  intro s u a hnext hpending hk hok haddr
  obtain ⟨hstep, hu⟩ := step_of_access hnext
  have hb : u.busy = true := by rw [hu]; exact Option.isSome_iff_ne_none.mpr hpending
  have hdropped : busWrite Config.unit a u = u.dropWrite := by
    refine busWrite_dropped hb (haddr.imp ?_ (Or.imp ?_ ?_))
    · exact (regAt_toNat_eq_some_iff _ .cmd).mpr
    · exact (regAt_toNat_eq_some_iff _ .inLen).mpr
    · exact regionOf_eq_inBuf_of_write hok hk
  rw [hstep, busAccess_write u hok hk, hdropped, State.dropWrite]

/-! ### HAZ -/

/-- What a write that passed the checks does to HAZ: nothing, or the write is dropped, or the W1C of STATUS. -/
theorem busWrite_haz (c : Config) (a : Access) (s : State) :
    (busWrite c a s).haz = s.haz ∨ (s.busy = true ∧ (busWrite c a s).haz = true) ∨
      (regAt a.addr.toNat = some .status ∧ (busWrite c a s).haz = (s.haz && !a.wdata.getLsbD 3)) := by
  rcases busWrite_cases c a s with e | ⟨hb, e⟩ | ⟨-, -, e⟩ | ⟨hstatus, e⟩ | ⟨-, e⟩ | ⟨-, -, e⟩ | ⟨-, -, e⟩ <;> rw [e]
  · exact .inl rfl
  · exact .inr (.inl ⟨hb, rfl⟩)
  · exact .inl rfl
  · exact .inr (.inr ⟨hstatus, rfl⟩)
  · exact .inl rfl
  · exact .inl rfl
  · exact .inl rfl

/-- What an access does to HAZ: nothing, or what a dropped write or a word write to STATUS makes of it. -/
theorem busAccess_haz (c : Config) (a : Access) (s : State) :
    (busAccess c a s).haz = s.haz ∨
      a.kind = .write ∧
        ((s.busy = true ∧ (busAccess c a s).haz = true) ∨
          (a.size = .word ∧ a.addr = 0x004 ∧ (busAccess c a s).haz = (s.haz && !a.wdata.getLsbD 3))) := by
  rcases busAccess_cases c a s with ⟨-, e⟩ | ⟨-, -, e⟩ | ⟨hok, hk, e⟩ <;> rw [e]
  · exact .inl rfl
  · exact .inl rfl
  · refine (busWrite_haz c a s).imp_right fun h => ⟨hk, h.imp_right ?_⟩
    rintro ⟨hr, hhaz⟩
    obtain ⟨hsize, haddr⟩ := word_of_regAt hok hr
    exact ⟨hsize, haddr, hhaz⟩

/-- The unit's turn leaves HAZ. -/
theorem eventStep_complete_haz (c : Config) (s : State) : (eventStep c .complete s).haz = s.haz := by
  cases hp : s.pending <;> simp [eventStep, hp]

/-- The events that lower HAZ. -/
theorem eventStep_haz_falls {c : Config} {e : Event} {s : State} (hs : s.haz = true) (ht : (eventStep c e s).haz = false) :
    e = .reset ∨ ∃ w : Word, e = .access ⟨.write, 0x004, .word, w⟩ ∧ w.getLsbD 3 = true := by
  cases e with
  | reset => exact .inl rfl
  | complete =>
    rw [eventStep_complete_haz, hs] at ht
    cases ht
  | access a =>
    obtain ⟨kind, addr, size, w⟩ := a
    rw [eventStep] at ht
    rcases busAccess_haz c ⟨kind, addr, size, w⟩ s with hhaz | ⟨rfl, ⟨-, hhaz⟩ | ⟨rfl, rfl, hhaz⟩⟩ <;> rw [hhaz] at ht
    · rw [hs] at ht; cases ht
    · cases ht
    · exact .inr ⟨w, rfl, by simpa [hs] using ht⟩

/-- The events that raise HAZ. -/
theorem eventStep_haz_rises {c : Config} {e : Event} {s : State} (hs : s.haz = false) (ht : (eventStep c e s).haz = true) :
    s.pending ≠ none ∧ ∃ a : Access, e = .access a ∧ a.kind = .write := by
  cases e with
  | reset => cases ht
  | complete =>
    rw [eventStep_complete_haz, hs] at ht
    cases ht
  | access a =>
    rw [eventStep] at ht
    rcases busAccess_haz c a s with hhaz | ⟨hk, ⟨hb, -⟩ | ⟨-, -, hhaz⟩⟩
    · rw [hhaz, hs] at ht; cases ht
    · exact ⟨Option.isSome_iff_ne_none.mp hb, a, rfl, hk⟩
    · simp [hhaz, hs] at ht

/-- Settles O52: the step is the next event, on a state that differs in the agenda alone. -/
theorem hazIsSticky : Obligations.HazIsSticky := by
  intro s t hstep
  rw [step_eq, nextEvent_snd] at hstep
  cases hstep
  exact ⟨fun hs ht => eventStep_haz_falls (s := { s with agenda := s.agenda.tail }) hs ht,
    fun hs ht => eventStep_haz_rises (s := { s with agenda := s.agenda.tail }) hs ht⟩

end Sys2Proof.Machine
end

section
/-! PROOFS. How a placed command word runs (70_reset_and_hazards.md R93, R94; log 13). -/

namespace Sys2Proof.Machine

/-- A table word of all 32 bits is the command word itself. -/
theorem tableWord_full (w : Nat) : tableWord 32 w = BitVec.ofNat 32 w := by
  apply BitVec.eq_of_toNat_eq
  simp [tableWord]

/-- The table's decoder answers a command exactly when the command word decodes to it (30_encoding.md R54). -/
theorem decodeTableWord_eq_some_iff (nbits w : Nat) (i : Instr) :
    decodeTableWord nbits w = some i ↔ decodeWord (tableWord nbits w) = .ok i := by
  cases hd : decodeWord (tableWord nbits w) <;> simp [decodeTableWord, hd]

/-- The unit's turn with a command pending runs the command. -/
theorem unitTurn_of_decode {s : State} {p : Pending} {i : Instr} (hp : s.pending = some p) (hi : decodeWord p.word = .ok i) :
    unitTurn s = exec i s := by
  simp only [unitTurn, hp, hi]

/-- The next event of a state with a command placed is the unit's turn, on the state that an accept of the word leaves. -/
theorem nextEvent_placeCommand (w : Word) (s : State) :
    nextEvent (placeCommand w s) = (.complete, s.accept Config.unit w) := rfl

/-- Settles O2: the unit's turn is next, and it finds the placed word pending. -/
theorem fetchedWordRunsNext : Obligations.FetchedWordRunsNext := by
  intro s w i hdecode
  rw [decodeTableWord_eq_some_iff, tableWord_full] at hdecode
  rw [State.withFetchWord, tableWord_full, step, nextEvent_placeCommand]
  exact unitTurn_of_decode (State.accept_pending _ _ s) hdecode

end Sys2Proof.Machine
end

section
/-! PROOFS. Reads that are draws: the result registers and OUT_BUF while BUSY (70_reset_and_hazards.md R97). -/

namespace Sys2Proof.Machine

/-- A word read of the lanes of a word is that word. -/
theorem readLanes_word_of_lane (w : Word) : readLanes .word (lane w) = w := by
  rw [readLanes_word]
  simp only [lane]
  rw [BitVec.extractLsb'_append_extractLsb'_eq_extractLsb' (by rfl),
    BitVec.extractLsb'_append_extractLsb'_eq_extractLsb' (by rfl),
    BitVec.extractLsb'_append_extractLsb'_eq_extractLsb' (by rfl), Nat.mul_zero, BitVec.extractLsb'_eq_self]

/-- A byte read of the lanes of a word is its low byte. -/
theorem readLanes_byte_of_lane (w : Word) : readLanes .byte (lane w) = (w.setWidth 8).setWidth 32 := by
  simp [readLanes, lane, BitVec.setWidth_eq_extractLsb']

/-- The lanes of a word, read by an access of a legal size: the word, or its low byte. -/
theorem readLanes_of_lane {size : AccessSize} (hs : size ≠ .other) (w : Word) :
    readLanes size (lane w) = if size = .word then w else (w.setWidth 8).setWidth 32 := by
  cases size with
  | other => exact absurd rfl hs
  | byte => exact readLanes_byte_of_lane w
  | word => exact readLanes_word_of_lane w

/-- While BUSY no byte of OutBuf is defined, so OUT_BUF shows the lanes of the draw. -/
theorem State.busOutByte_busy (c : Config) {s : State} (hb : s.busy = true) (j : Nat) :
    s.busOutByte c j = lane (c.freeWord s.draws) := by
  funext k
  simp [State.busOutByte, State.outByte, hb]

/-- While BUSY a result register reads as the draw. -/
theorem State.busReadReg_busy (c : Config) {s : State} (hb : s.busy = true) {r : Reg} (hr : r.isResult = true) :
    s.busReadReg c r = c.freeWord s.draws := by
  simp [State.busReadReg, hb, hr]

/-- The words that address the result registers (10_state.md R16 to R22). -/
theorem regAt_of_mem_results {o : Word} (h : o ∈ ([0x010, 0x014, 0x018, 0x01C, 0x020, 0x024, 0x028] : List Word)) :
    ∃ r : Reg, regAt o.toNat = some r ∧ r.isResult = true := by
  have hlist : ([0x010, 0x014, 0x018, 0x01C, 0x020, 0x024, 0x028] : List Word) =
      (Reg.all.filter Reg.isResult).map Reg.addr := rfl
  rw [hlist, List.mem_map] at h
  obtain ⟨r, hr, rfl⟩ := h
  exact ⟨r, (regAt_toNat_eq_some_iff _ r).mpr rfl, (List.mem_filter.mp hr).2⟩

/-- A read of a result register that proceeds answers the draw while BUSY; it is a word (20_memory.md R32). -/
theorem busRead_result_busy {c : Config} {a : Access} {s : State} {r : Reg} (hok : accessError c a = false)
    (hb : s.busy = true) (hr : regAt a.addr.toNat = some r) (hres : r.isResult = true) :
    a.size = .word ∧ busRead c a s = c.freeWord s.draws := by
  obtain ⟨hsize, haddr⟩ := word_of_regAt hok hr
  have hreg : regionOf c a.addr.toNat = .reg := (regionOf_reg_iff c _).mpr (by rw [haddr]; cases r <;> decide)
  exact ⟨hsize, by rw [busRead_reg s hreg, hr, Option.elim_some, State.busReadReg_busy c hb hres]⟩

/-- A read of OUT_BUF answers the lanes of the draw while BUSY. -/
theorem busRead_outBuf_busy {c : Config} {a : Access} {s : State} (hb : s.busy = true)
    (hr : regionOf c a.addr.toNat = .outBuf) : busRead c a s = readLanes a.size (lane (c.freeWord s.draws)) := by
  rw [busRead_outBuf s hr, State.busOutByte_busy c hb]

/-- Settles O39: the read is answered from a BUSY unit, where a result register is a word of the draw and OUT_BUF its lanes. -/
theorem busyResultReadsAreDraws : Obligations.BusyResultReadsAreDraws := by
  intro s u a hnext hpending hk hok haddr
  have hbusy : s.busy = true := Option.isSome_iff_ne_none.mpr hpending
  have hdraws : u.draws = s.draws := by rw [← nextEvent_draws s, hnext]
  obtain ⟨hother, hmapped, -⟩ := (accessError_eq_false_iff _ a).mp hok
  refine ⟨_, step_read hnext hok hk, by rw [State.respond_draws, hdraws], ?_⟩
  congr 2
  rcases haddr with hmem | hlo
  · obtain ⟨r, hr, hres⟩ := regAt_of_mem_results hmem
    obtain ⟨hsize, hread⟩ := busRead_result_busy hok hbusy hr hres
    rw [hread, if_pos hsize]
  · rw [busRead_outBuf_busy hbusy (regionOf_eq_outBuf hmapped hlo), readLanes_of_lane hother]

end Sys2Proof.Machine
end
